-- ==== Sys2Proof/Word.lean ====
section
/-! DEFINITION. The widths of the refresh core (R5): words, masks, bytes, levels. -/

namespace Sys2Proof

/-- A command word or a response word, 32 bits (R51, R56). -/
abbrev Word := BitVec 32

/-- A level mask, 16 bits; bit `b` is column `b` (R5, R11). -/
abbrev Mask := BitVec 16

/-- A serialized byte, 8 bits (R5). Also the width of a level operand as it is carried (R53). -/
abbrev Byte := BitVec 8

/-- A level that exists: the address of a FrameBuffer cell and the index of a row line, 0 to 3 (R5, R31). -/
abbrev Level := Fin 4

end Sys2Proof
end

