-- ==== Sys2Proof/Syntax.lean ====
section
/-! DEFINITION. The nine operations of the refresh core, the inputs they arrive on, and the listing notation (R50, R52, R63). -/

namespace Sys2Proof

/-- The two command ports (R50). The identity of a port is the physical port a word arrives on; it is no part of the word (R121). -/
inductive Port where
  /-- The foreground port, used by CubeControl. -/
  | F
  /-- The system port, used by the initialisation glue and by test benches. -/
  | S
deriving DecidableEq, Repr

/-- The agents that start events (R123): the timer by a tick, and the two ports. The chain and the LEDs start none. -/
inductive Agent where
  | timer
  | port (p : Port)
deriving DecidableEq, Repr

/-- The operations, one constructor for each row of `opcode_table.json` (R52).
The operands have the widths the command word gives them (R53, R54): a level operand is 8 bits, so that 4 to 255 can be carried and rejected. -/
inductive Instr where
  | writeByte (value : Byte)
  | latch
  | clear
  | writeFrame (mask : Mask)
  | select (level : Byte)
  | setLevel (level : Byte) (mask : Mask)
  | setAll (mask : Mask)
  | getLevel (level : Byte)
  | tick
deriving DecidableEq, Repr

/-- The mnemonics of R52, as the opcode table spells them. -/
inductive Mnemonic where
  | WRITE_BYTE
  | LATCH
  | CLEAR
  | WRITE_FRAME
  | SELECT
  | SET_LEVEL
  | SET_ALL
  | GET_LEVEL
  | TICK
deriving DecidableEq, Repr

/-- The mnemonic of an operation (R52). -/
def Instr.mnemonic : Instr → Mnemonic
  | .writeByte _ => .WRITE_BYTE
  | .latch => .LATCH
  | .clear => .CLEAR
  | .writeFrame _ => .WRITE_FRAME
  | .select _ => .SELECT
  | .setLevel _ _ => .SET_LEVEL
  | .setAll _ => .SET_ALL
  | .getLevel _ => .GET_LEVEL
  | .tick => .TICK

/-- An operation as it is written down: a mnemonic followed by its operands, plain numbers (R63).
What makes one well formed is in `WellFormed.lean`. -/
structure Listing where
  mnemonic : Mnemonic
  operands : List Nat
deriving DecidableEq, Repr

/-- A line of a program listing: the prefix `F:`, `S:` or `T:`, then an operation (R63). -/
structure ListingLine where
  agent : Agent
  text : Listing
deriving DecidableEq, Repr

/-- How an operation is written down (R63). -/
def Instr.listing : Instr → Listing
  | .writeByte v => ⟨.WRITE_BYTE, [v.toNat]⟩
  | .latch => ⟨.LATCH, []⟩
  | .clear => ⟨.CLEAR, []⟩
  | .writeFrame m => ⟨.WRITE_FRAME, [m.toNat]⟩
  | .select l => ⟨.SELECT, [l.toNat]⟩
  | .setLevel l m => ⟨.SET_LEVEL, [l.toNat, m.toNat]⟩
  | .setAll m => ⟨.SET_ALL, [m.toNat]⟩
  | .getLevel l => ⟨.GET_LEVEL, [l.toNat]⟩
  | .tick => ⟨.TICK, []⟩

end Sys2Proof
end

