-- ==== Sys2Proof/WellFormed.lean ====
section
/-! DEFINITION. Which listings are operations (R63): the number of operands of each mnemonic and the range of each operand. -/

namespace Sys2Proof

/-- R63: `value` and `level` are in [0, 255]. A level of 4 to 255 is well formed: it decodes and is then answered `BOUNDS` (R53). -/
def fitsByte (n : Nat) : Bool := n < 256

/-- R63: `mask` is in [0, 0xFFFF]. -/
def fitsMask (n : Nat) : Bool := n < 65536

/-- R63: a listing is well formed when its mnemonic has its own number of operands, each in range. -/
def Listing.wellFormed (x : Listing) : Bool :=
  match x.mnemonic with
  | .WRITE_BYTE => match x.operands with
    | [v] => fitsByte v
    | _ => false
  | .LATCH => x.operands.isEmpty
  | .CLEAR => x.operands.isEmpty
  | .WRITE_FRAME => match x.operands with
    | [m] => fitsMask m
    | _ => false
  | .SELECT => match x.operands with
    | [l] => fitsByte l
    | _ => false
  | .SET_LEVEL => match x.operands with
    | [l, m] => fitsByte l && fitsMask m
    | _ => false
  | .SET_ALL => match x.operands with
    | [m] => fitsMask m
    | _ => false
  | .GET_LEVEL => match x.operands with
    | [l] => fitsByte l
    | _ => false
  | .TICK => x.operands.isEmpty

/-- R63: a line with the prefix `T:` is a tick delivered by the tick input, so its operation is TICK; a line of a port holds any operation. -/
def ListingLine.wellFormed (x : ListingLine) : Bool :=
  x.text.wellFormed &&
    match x.agent with
    | .timer => decide (x.text.mnemonic = .TICK)
    | .port _ => true

/-- An operation is well formed when what it is written as is. Its operands have their widths in their types, so every operation is
(stated in `Obligations.ListingsNameOperations`). -/
def Instr.wellFormed (i : Instr) : Bool := i.listing.wellFormed

end Sys2Proof
end

