-- ==== Sys2Proof/Decode.lean ====
section
/-! DEFINITION. Decoding a 32-bit command word, and encoding an operation (R51 to R55, R59, and the opcode table). -/

namespace Sys2Proof

/-! ## The fields of a command word (R51) -/

/-- Bits 31:28, the operation code (R51). -/
def opField (w : Word) : BitVec 4 := w.extractLsb' 28 4

/-- Bits 27:24, which must be zero (R51, R55). -/
def zField (w : Word) : BitVec 4 := w.extractLsb' 24 4

/-- Bits 23:16, the level operand (R53). -/
def levelField (w : Word) : Byte := w.extractLsb' 16 8

/-- Bits 15:0, the mask operand (R54). -/
def immField (w : Word) : Mask := w.extractLsb' 0 16

/-- Bits 7:0, the byte operand of WRITE_BYTE (R54). -/
def valueField (w : Word) : Byte := w.extractLsb' 0 8

/-- Bits 15:8, which must be zero in WRITE_BYTE (R55). -/
def immHighField (w : Word) : Byte := w.extractLsb' 8 8

/-- A command word put together from its fields, `z` zero (R51). -/
def packWord (op : BitVec 4) (level : Byte) (imm : Mask) : Word := op ++ (0#4 ++ (level ++ imm))

/-! ## The opcode table (R52) -/

/-- A row of the opcode table: its mnemonic, its match value and its mask value (R52). -/
structure OpcodeRow where
  mnemonic : Mnemonic
  matchBits : Word
  maskBits : Word
deriving DecidableEq, Repr

/-- The nine rows of R52, in the table's order. -/
def opcodeRows : List OpcodeRow :=
  [ ⟨.WRITE_BYTE, 0x10000000#32, 0xFFFFFF00#32⟩,
    ⟨.LATCH, 0x20000000#32, 0xFFFFFFFF#32⟩,
    ⟨.CLEAR, 0x30000000#32, 0xFFFFFFFF#32⟩,
    ⟨.WRITE_FRAME, 0x40000000#32, 0xFFFF0000#32⟩,
    ⟨.SELECT, 0x50000000#32, 0xFF00FFFF#32⟩,
    ⟨.SET_LEVEL, 0x60000000#32, 0xFF000000#32⟩,
    ⟨.SET_ALL, 0x70000000#32, 0xFFFF0000#32⟩,
    ⟨.GET_LEVEL, 0x80000000#32, 0xFF00FFFF#32⟩,
    ⟨.TICK, 0x90000000#32, 0xFFFFFFFF#32⟩ ]

/-- R52: a word selects a row iff `w & mask == match`. -/
def OpcodeRow.selects (r : OpcodeRow) (w : Word) : Bool := w &&& r.maskBits == r.matchBits

/-- The operation a word stands for once its row is known: the operands are read from their fields, unsigned and unscaled (R53, R54). -/
def operation (m : Mnemonic) (w : Word) : Instr :=
  match m with
  | .WRITE_BYTE => .writeByte (valueField w)
  | .LATCH => .latch
  | .CLEAR => .clear
  | .WRITE_FRAME => .writeFrame (immField w)
  | .SELECT => .select (levelField w)
  | .SET_LEVEL => .setLevel (levelField w) (immField w)
  | .SET_ALL => .setAll (immField w)
  | .GET_LEVEL => .getLevel (levelField w)
  | .TICK => .tick

/-! ## Decoding -/

/-- Why a word is illegal (R59): both are answered `ILLEGAL` (R112). -/
inductive DecodeError where
  /-- The operation code is 0x0 or 0xA to 0xF. -/
  | reservedOp
  /-- The operation code is defined and a must-be-zero bit is 1 (R55). -/
  | mustBeZero
deriving DecidableEq, Repr

/-- R52, R59: the operation codes 0x1 to 0x9 are defined, 0x0 and 0xA to 0xF are reserved. -/
def isReservedOp (op : BitVec 4) : Bool := op == 0#4 || 10#4 ≤ op

/-- R58 step 1 and R59: the operation of the row a word selects, or the reason it selects none. Total: every word decodes or is rejected. -/
def decode (w : Word) : Except DecodeError Instr :=
  match opcodeRows.find? (fun r => r.selects w) with
  | some r => .ok (operation r.mnemonic w)
  | none => .error (if isReservedOp (opField w) then .reservedOp else .mustBeZero)

/-- The bits of an instruction numbered as `opcode_table.json` numbers them, as a command word.
A command is one 32-bit value, not bytes in an order (R51), so the number is the word (DEDUCED, safe; log 19); the bits from `nbits` up are zero. -/
def tableWord (nbits w : Nat) : Word := BitVec.ofNat 32 (w % 2 ^ nbits)

/-- The operation the decoder reads from the bits of an opcode-table row; none where it rejects them. -/
def decodeTableWord (nbits w : Nat) : Option Instr :=
  match decode (tableWord nbits w) with
  | .ok i => some i
  | .error _ => none

/-! ## Encoding -/

/-- The command word of an operation, written from R52's table of fields. -/
def encode : Instr → Word
  | .writeByte v => packWord 0x1#4 0#8 (0#8 ++ v)
  | .latch => packWord 0x2#4 0#8 0#16
  | .clear => packWord 0x3#4 0#8 0#16
  | .writeFrame m => packWord 0x4#4 0#8 m
  | .select l => packWord 0x5#4 l 0#16
  | .setLevel l m => packWord 0x6#4 l m
  | .setAll m => packWord 0x7#4 0#8 m
  | .getLevel l => packWord 0x8#4 l 0#16
  | .tick => packWord 0x9#4 0#8 0#16

/-! ## Listings (R63) -/

/-- The operation a listing names, where it is well formed (R63). -/
def Listing.assemble (x : Listing) : Option Instr :=
  if x.wellFormed then
    match x.mnemonic, x.operands with
    | .WRITE_BYTE, [v] => some (.writeByte (BitVec.ofNat 8 v))
    | .LATCH, [] => some .latch
    | .CLEAR, [] => some .clear
    | .WRITE_FRAME, [m] => some (.writeFrame (BitVec.ofNat 16 m))
    | .SELECT, [l] => some (.select (BitVec.ofNat 8 l))
    | .SET_LEVEL, [l, m] => some (.setLevel (BitVec.ofNat 8 l) (BitVec.ofNat 16 m))
    | .SET_ALL, [m] => some (.setAll (BitVec.ofNat 16 m))
    | .GET_LEVEL, [l] => some (.getLevel (BitVec.ofNat 8 l))
    | .TICK, [] => some .tick
    | _, _ => none
  else none

end Sys2Proof
end

