-- ==== Sys2Proof/Config.lean ====
section
/-! DEFINITION. What is fixed for one machine: the source's fixed parameters (R5), the open ones (R6), and the free values the spec leaves at reset (R141). -/

namespace Sys2Proof

/-! ## Fixed parameters (R5) -/

/-- `NLEVELS`, also the number of row-enable lines (R5). -/
def Config.nLevels : Nat := 4

/-- `MASKW` (R5). -/
def Config.maskWidth : Nat := 16

/-- `NREGS`, the number of daisy-chained registers (R5). -/
def Config.nRegisters : Nat := 2

/-- `BYTEW`, bits per serialized byte (R5). -/
def Config.byteWidth : Nat := 8

/-- `CURSORMOD` (R5). -/
def Config.cursorModulus : Nat := 4

/-- Clock pulses per refresh tick (R5). -/
def Config.clockPulsesPerTick : Nat := 16

/-! ## Open parameters (R6) -/

/-- The eight output lines that `PINMAP` assigns to physical pins (R6, D1, D19). -/
inductive OutputLine where
  | data
  | clk
  | latch
  | clrn
  | row (l : Level)
deriving DecidableEq, Repr

/-- `TICK_PERIOD` (R6, D18; log 16): left open, fixed for a machine; no rule reads it. -/
opaque Config.tickPeriod : Nat

/-- `PINMAP` (R6, D19; log 16): left open, fixed for a machine; no rule reads it. -/
opaque Config.pinMap : OutputLine → Nat

/-! ## Free values -/

/-- What the shift stage of the attached chain holds after reset: any value, about which nothing is known (R26, R141, U2; log 5). -/
opaque Config.chainSrAtReset : Mask

/-- What the output stage of the attached chain holds after reset: any value, about which nothing is known (R26, R141, U2; log 5). -/
opaque Config.chainOutAtReset : Mask

end Sys2Proof
end

