-- ==== Sys2Proof/Machine/State.lean ====
section
/-! DEFINITION. The state of the refresh core with its ports, its pins, its trace and the attached chain (`10_state.md`), and the reasons a step can stop. -/

namespace Sys2Proof.Machine

/-- The levels on the output lines: PIN.DATA, PIN.CLK, PIN.LATCH, PIN.CLRn (R13) and PIN.ROW (R14). A line carries a logic level. -/
structure Pins where
  data : Bool
  clk : Bool
  latch : Bool
  clrn : Bool
  row : BitVec 4
deriving DecidableEq, Repr

/-- A pin event, `(line, value)` (R16): one bit for a serializer line, the whole 4-bit vector for ROW. -/
inductive PinEvent where
  | data (v : Bool)
  | clk (v : Bool)
  | latch (v : Bool)
  | clrn (v : Bool)
  | row (v : BitVec 4)
deriving DecidableEq, Repr

/-- The attached chain of two registers: the shift stage CHAIN.SR and the output stage CHAIN.OUT (R20, R124). -/
structure Chain where
  sr : Mask
  out : Mask
deriving DecidableEq, Repr

/-- What hangs on the eight lines: their levels and the chain that reacts to them (R18). -/
structure Wires where
  pins : Pins
  chain : Chain
deriving DecidableEq, Repr

/-- An outstanding FrameBuffer store of a SET_ALL in progress (R19). -/
structure PendingStore where
  level : Level
  mask : Mask
deriving DecidableEq, Repr

/-- One command port. `pending` is the spec's PENDING[p] (R19); the other two are the model's own record of the port's input and output (R23). -/
structure PortState where
  /-- PENDING[p], the stores of a SET_ALL still to be made, in order (R19, R88). -/
  pending : List PendingStore
  /-- The command words presented on the port and not taken yet, in arrival order (an input, R23, R50). DESIGN CHOICE, safe (log 1); empty at reset (log 2). -/
  incoming : List Word
  /-- The response words returned on the port since reset, oldest first (an output, R23, D30). DESIGN CHOICE, safe (log 3). -/
  responses : List Word
deriving DecidableEq, Repr

/-- The machine. Plain data. -/
structure State where
  /-- FB[0..3], the FrameBuffer (R10). -/
  fb : Vector Mask 4
  /-- CURSOR, the refresh cursor (R12). -/
  cursor : BitVec 2
  /-- The lines and the attached chain (R13, R14, R20). -/
  wires : Wires
  /-- TRACE, every pin event since reset, oldest first (R16). Nothing reads it. -/
  trace : List PinEvent
  /-- Port F (R19, R50). -/
  portF : PortState
  /-- Port S (R19, R50). -/
  portS : PortState
  /-- Whose event comes next, in order (an input, R23, R42). DESIGN CHOICE, safe (log 1); empty at reset (log 2). -/
  order : List Agent
  /-- The port whose event is being executed (R50, R121). DESIGN CHOICE (log 4); its reset value S is chosen, unsafe. -/
  port : Port
deriving DecidableEq, Repr

/-- Why the machine stops. Nothing the spec gives the untimed core stops it: errors are answers (R110, R114). -/
inductive Fault where
  /-- R132, D13: a tick is delivered while an event has not finished. Only a model that adds time can meet it; no step of this one raises it
  (log 10). Safe in itself; the platform's duty R148 is a premise of every claim. -/
  | tickOverrun
deriving DecidableEq, Repr

/-- Why an operation has no meaning. -/
inductive Refusal where
  /-- Raised by `exec` for an operation with no meaning yet. Safe: nothing is claimed of it. No arm raises it. -/
  | notModelled (mnemonic : String)
deriving DecidableEq, Repr

/-- What an event ends in. -/
abbrev Result := Host.Outcome State Fault Refusal

/-- The idle levels of the lines, at which reset puts them (R15, R26, R140). -/
def Pins.idle : Pins := { data := false, clk := false, latch := false, clrn := true, row := 0b0000#4 }

/-- The contents of the chain after reset, unspecified: two free values (R26, R141; log 5). -/
def Chain.atReset : Chain := { sr := Config.chainSrAtReset, out := Config.chainOutAtReset }

/-- A port after reset: nothing pending (R26), and nothing presented or answered yet (log 2, log 3). -/
def PortState.atReset : PortState := { pending := [], incoming := [], responses := [] }

/-- The machine right after reset (R26, R140, R141). Reset makes no pin event and does not reach the chain. -/
def State.reset : State :=
  { fb := Vector.replicate 4 0x0000#16
    cursor := 0#2
    wires := { pins := Pins.idle, chain := Chain.atReset }
    trace := []
    portF := PortState.atReset
    portS := PortState.atReset
    order := []
    port := .S }

end Sys2Proof.Machine
end

