-- ==== Sys2Proof/Machine/Flags.lean ====
section
/-! DEFINITION. The core has no flags (R21). What a command reports, it reports in the status byte of its response word (R56, R57). -/

namespace Sys2Proof.Machine

/-- The status of a response (R57); 0x04 to 0xFF are never returned. -/
inductive Status where
  /-- The operation was performed. -/
  | ok
  /-- BoundsError (R111): the level operand is 4 or more. -/
  | bounds
  /-- IllegalCommand (R112): the word matches no row. -/
  | illegal
  /-- NotPermitted (R113): the operation is not allowed on the port. -/
  | notPermitted
deriving DecidableEq, Repr

/-- The status codes of R57. -/
def statusCode : Status → Byte
  | .ok => 0x00#8
  | .bounds => 0x01#8
  | .illegal => 0x02#8
  | .notPermitted => 0x03#8

/-- R56: status 31:24, zero 23:16, data 15:0. -/
def responseWord (status : Status) (data : Mask) : Word := statusCode status ++ (0x00#8 ++ data)

end Sys2Proof.Machine
end

