-- ==== Sys2Proof/Machine/Operands.lean ====
section
/-! DEFINITION. The operand forms, and the five computations and the one comparison of the block (R53, R54, R102). -/

namespace Sys2Proof.Machine

/-- R102: `(CURSOR + 1) mod 4`, a 2-bit addition with the carry out discarded. -/
def nextCursor (c : BitVec 2) : BitVec 2 := c + 1#2

/-- The level the cursor names, as a cell index (R12, R95 step 1). -/
def cursorLevel (c : BitVec 2) : Level := ⟨c.toNat, c.isLt⟩

/-- R102: `m & 0xFF`, that is `m[7:0]`. -/
def lowByte (m : Mask) : Byte := m.extractLsb' 0 8

/-- R102: `m >> 8`, that is `m[15:8]`. -/
def highByte (m : Mask) : Byte := m.extractLsb' 8 8

/-- R102, R70: the bits of a byte, bit 0 first. -/
def byteBits (v : Byte) : List Bool := (List.range 8).map v.getLsbD

/-- R102, R80: `0b0001 << level`, the one-hot row value of a level. -/
def rowBit (l : Level) : BitVec 4 := 0b0001#4 <<< l.val

/-- R53, R58 step 3: the level an 8-bit operand names. It is compared with 4 and never reduced: 4 to 255 name no level. -/
def levelOperand (operand : Byte) : Option Level :=
  if h : operand.toNat < 4 then some ⟨operand.toNat, h⟩ else none

end Sys2Proof.Machine
end

