-- ==== Sys2Proof/Machine/Ops.lean ====
section
/-! DEFINITION. The operations every meaning is made of: the FrameBuffer's read and write, the pin-write primitive with the chain's reaction, the ports, the response, and raising an error. -/

namespace Sys2Proof.Machine

/-! ## The FrameBuffer (R31, R39) -/

/-- `FB[l]`: all 16 bits of one cell (R39). -/
def State.readLevel (s : State) (l : Level) : Mask := s.fb[l]

/-- `FB[l] <- v`: one atomic step over all 16 bits (R39). -/
def State.writeLevel (s : State) (l : Level) (v : Mask) : State := { s with fb := s.fb.set l v }

/-! ## The lines and the chain -/

/-- The levels after one pin write (R13, R14, R18). -/
def Pins.write (p : Pins) (e : PinEvent) : Pins :=
  match e with
  | .data v => { p with data := v }
  | .clk v => { p with clk := v }
  | .latch v => { p with latch := v }
  | .clrn v => { p with clrn := v }
  | .row v => { p with row := v }

/-- R126: one place along the chain, `((SR << 1) & 0xFFFF) | DATA`; the bit shifted out of stage 15 is lost. -/
def shiftIn (sr : Mask) (d : Bool) : Mask := (sr <<< 1) ||| (BitVec.ofBool d).setWidth 16

/-- R126 `ChainReact` (of the spec's general knowledge, log 13): the chain's reaction to one pin event; `old` are the levels before it, `now` the levels after it. -/
def chainReact (e : PinEvent) (old now : Pins) (c : Chain) : Chain :=
  match e with
  | .clrn v => if v then c else { c with sr := 0x0000#16 }
  | .clk v =>
    if !old.clk && v then
      if now.clrn then { c with sr := shiftIn c.sr now.data } else { c with sr := 0x0000#16 }
    else c
  | .latch v => if !old.latch && v then { c with out := c.sr } else c
  | .data _ => c
  | .row _ => c

/-- A pin write and the chain's reaction to it (R18, less the trace). -/
def Wires.react (x : Wires) (e : PinEvent) : Wires :=
  { pins := x.pins.write e, chain := chainReact e x.pins (x.pins.write e) x.chain }

/-- R18 `drive(line, v)`: the line takes its level, TRACE records the event, the chain reacts. -/
def drive (e : PinEvent) (s : State) : State :=
  { s with wires := s.wires.react e, trace := s.trace ++ [e] }

/-- The clock pulse, high then low (R61). -/
def pulseClock (s : State) : State := drive (.clk false) (drive (.clk true) s)

/-- The latch pulse, a single rising-then-falling pulse (R61). -/
def pulseLatch (s : State) : State := drive (.latch false) (drive (.latch true) s)

/-- The clear pulse, active then released; the line is active low (R61). -/
def pulseClear (s : State) : State := drive (.clrn true) (drive (.clrn false) s)

/-- One bit on the wire: the data line is written before the clock rises and not again until after it has fallen (R70). -/
def sendBit (s : State) (b : Bool) : State := pulseClock (drive (.data b) s)

/-- The pin events of WRITE_BYTE (R70): eight bits, bit 0 first, then the data line low. -/
def sendByte (v : Byte) (s : State) : State := drive (.data false) ((byteBits v).foldl sendBit s)

/-- The pin events of WRITE_FRAME (R73): the low byte, the high byte, the latch pulse. -/
def sendFrame (m : Mask) (s : State) : State := pulseLatch (sendByte (highByte m) (sendByte (lowByte m) s))

/-- The pin events of CLEAR (R72): the clear pulse, then the latch pulse. -/
def blankChain (s : State) : State := pulseLatch (pulseClear s)

/-- R80: all four row lines cleared in one event, then the line of the level set. -/
def clearRows (s : State) : State := drive (.row 0b0000#4) s

/-- R80: the second event of SELECT, `PIN.ROW | (1 << level)`. -/
def setRow (l : Level) (s : State) : State := drive (.row (s.wires.pins.row ||| rowBit l)) s

/-- The pin events of SELECT (R80, R81): clear, then set. -/
def selectRow (l : Level) (s : State) : State := setRow l (clearRows s)

/-! ## The ports (R19, R50) -/

/-- What port `p` holds. -/
def State.portState (s : State) (p : Port) : PortState :=
  match p with
  | .F => s.portF
  | .S => s.portS

/-- The state with what port `p` holds replaced. -/
def State.setPortState (s : State) (p : Port) (x : PortState) : State :=
  match p with
  | .F => { s with portF := x }
  | .S => { s with portS := x }

/-- The state with PENDING[p] replaced (R19). -/
def State.setPending (s : State) (p : Port) (l : List PendingStore) : State :=
  s.setPortState p { s.portState p with pending := l }

/-- `respond(status, data)` on the port whose event is being executed (R56). -/
def respond (status : Status) (data : Mask) (s : State) : State :=
  s.setPortState s.port
    { s.portState s.port with responses := (s.portState s.port).responses ++ [responseWord status data] }

/-! ## Errors: the block's exceptions (R110 to R114)

An error ends the command that caused it before any state is changed and answers it; it saves nothing, goes nowhere, and there is nothing
to return from (R119, R120). -/

/-- R110 `raise E(info)`: no state change, and the response word with the error's status and `data = 0`. -/
def raiseError (status : Status) (s : State) : State := respond status 0x0000#16 s

/-- R58 step 2, R113, R121: an operation that only port S may issue; on port F it is answered `NOT_PERMITTED`. -/
def onSystemPort (s : State) (run : State → State) : State :=
  match s.port with
  | .S => run s
  | .F => raiseError .notPermitted s

/-- R58 step 3, R111: an operation with a level operand; a level of 4 or more is answered `BOUNDS`. -/
def withLevel (operand : Byte) (s : State) (run : Level → State → State) : State :=
  match levelOperand operand with
  | some l => run l s
  | none => raiseError .bounds s

end Sys2Proof.Machine
end

