-- ==== Sys2Proof/Machine/FrameBuffer.lean ====
section
/-! DEFINITION. The FrameBuffer's operations: SET_LEVEL, SET_ALL, GET_LEVEL (`42_framebuffer.md`). -/

namespace Sys2Proof.Machine

/-- SET_LEVEL (R85): store one level, overwriting it. Permitted on both ports. -/
def execSetLevel (level : Byte) (mask : Mask) (s : State) : Result :=
  .next (withLevel level s fun l s => respond .ok 0x0000#16 (s.writeLevel l mask))

/-- R88: the stores a SET_ALL still owes after its first, in ascending level order, the spec's own choice D7 (log 11). -/
def setAllRemainder (mask : Mask) : List PendingStore := [⟨1, mask⟩, ⟨2, mask⟩, ⟨3, mask⟩]

/-- SET_ALL (R87, R88), the event that decodes it: the first of the four stores, and the other three put into PENDING[p].
The response is returned by the event that makes the last store. Permitted on both ports. DEDUCED, safe: no step runs it while PENDING[p] is not empty (log 18). -/
def execSetAll (mask : Mask) (s : State) : Result :=
  .next ((s.writeLevel 0 mask).setPending s.port (setAllRemainder mask))

/-- R88: a later event of the port `s.port`: the store at the head of its PENDING list, whose tail is `rest`.
The event that empties the list returns the response. -/
def makePendingStore (x : PendingStore) (rest : List PendingStore) (s : State) : State :=
  let t := (s.writeLevel x.level x.mask).setPending s.port rest
  match rest with
  | [] => respond .ok 0x0000#16 t
  | _ :: _ => t

/-- GET_LEVEL (R86): load one level into the response. It changes nothing else. -/
def execGetLevel (level : Byte) (s : State) : Result :=
  .next (onSystemPort s fun s => withLevel level s fun l s => respond .ok (s.readLevel l) s)

end Sys2Proof.Machine
end

