-- ==== Sys2Proof/Machine/RefreshScheduler.lean ====
section
/-! DEFINITION. The RefreshScheduler's transition, TICK (`43_refresh_scheduler.md`). -/

namespace Sys2Proof.Machine

/-- R95 step 5: the cursor advances by 1 modulo 4. -/
def advanceCursor (s : State) : State := { s with cursor := nextCursor s.cursor }

/-- R95, R96: the five steps of a tick in their order. The FrameBuffer is read before any pin moves, the row is switched before the frame is
shifted, the cursor is advanced last. -/
def refreshTick (s : State) : State :=
  let level := cursorLevel s.cursor
  let mask := s.readLevel level
  advanceCursor (sendFrame mask (selectRow level s))

/-- TICK as a command (R95, R99): the effect of a tick on the tick input, and a response. -/
def execTick (s : State) : Result :=
  .next (onSystemPort s fun s => respond .ok 0x0000#16 (refreshTick s))

end Sys2Proof.Machine
end

