-- ==== Sys2Proof/Machine/RowSelector.lean ====
section
/-! DEFINITION. The RowSelector's operation: SELECT (`41_row_selector.md`). -/

namespace Sys2Proof.Machine

/-- SELECT (R80): enable one row line and no other; a level of 4 or more touches no pin. -/
def execSelect (level : Byte) (s : State) : Result :=
  .next (onSystemPort s fun s => withLevel level s fun l s => respond .ok 0x0000#16 (selectRow l s))

end Sys2Proof.Machine
end

