-- ==== Sys2Proof/Machine/ShiftRegisterLink.lean ====
section
/-! DEFINITION. The ShiftRegisterLink's operations: WRITE_BYTE, LATCH, CLEAR, WRITE_FRAME (`40_shift_register_link.md`). -/

namespace Sys2Proof.Machine

/-- WRITE_BYTE (R70): serialize one byte, least significant bit first. -/
def execWriteByte (value : Byte) (s : State) : Result :=
  .next (onSystemPort s fun s => respond .ok 0x0000#16 (sendByte value s))

/-- LATCH (R71): pulse the latch line once. It does not count the bytes written before it (R115). -/
def execLatch (s : State) : Result :=
  .next (onSystemPort s fun s => respond .ok 0x0000#16 (pulseLatch s))

/-- CLEAR (R72): blank the chain. The row, the FrameBuffer and the cursor are left alone. -/
def execClear (s : State) : Result :=
  .next (onSystemPort s fun s => respond .ok 0x0000#16 (blankChain s))

/-- WRITE_FRAME (R73): send one whole wire frame and latch it. -/
def execWriteFrame (mask : Mask) (s : State) : Result :=
  .next (onSystemPort s fun s => respond .ok 0x0000#16 (sendFrame mask s))

end Sys2Proof.Machine
end

