-- ==== Sys2Proof/Machine/Dispatch.lean ====
section
/-! DEFINITION. One arm for each operation. -/

namespace Sys2Proof.Machine

-- R58 step 4: the rule of each row, for the command of the port s.port.
def exec (i : Instr) (s : State) : Host.Outcome State Fault Refusal :=
  match i with
  | .writeByte value => Sys2Proof.Machine.execWriteByte value s
  | .latch => Sys2Proof.Machine.execLatch s
  | .clear => Sys2Proof.Machine.execClear s
  | .writeFrame mask => Sys2Proof.Machine.execWriteFrame mask s
  | .select level => Sys2Proof.Machine.execSelect level s
  | .setLevel level mask => Sys2Proof.Machine.execSetLevel level mask s
  | .setAll mask => Sys2Proof.Machine.execSetAll mask s
  | .getLevel level => Sys2Proof.Machine.execGetLevel level s
  | .tick => Sys2Proof.Machine.execTick s

end Sys2Proof.Machine
end

