-- ==== Sys2Proof/Machine/Sequencer.lean ====
section
/-! DEFINITION. Which event comes next and what it does: ticks, commands, and the later stores of a SET_ALL (R42, R50, R58, R88). Also how words and ticks are presented from outside. -/

namespace Sys2Proof.Machine

/-- An event of the model (R42), or a turn in which nothing is there to be done. -/
inductive Event where
  /-- No agent has an event, or the port whose turn it is has no word. DESIGN CHOICE, safe (log 8). -/
  | idle
  /-- A tick on the tick input (R116). -/
  | tick
  /-- A command word taken on a port (R50). -/
  | command (p : Port) (w : Word)
  /-- The next store of the SET_ALL in progress on a port, and the stores after it (R88). -/
  | store (p : Port) (x : PendingStore) (rest : List PendingStore)
deriving DecidableEq, Repr

/-- The event of port `p` (R19, R88): while PENDING[p] is not empty it is the store at its head, and the port takes no command; otherwise it is
the next command presented. -/
def portEvent (p : Port) (s : State) : Event :=
  match (s.portState p).pending with
  | x :: rest => .store p x rest
  | [] =>
    match (s.portState p).incoming with
    | w :: _ => .command p w
    | [] => .idle

/-- The next event: that of the agent at the head of `order` (R42). -/
def nextEvent (s : State) : Event :=
  match s.order with
  | [] => .idle
  | .timer :: _ => .tick
  | .port p :: _ => portEvent p s

/-- The agent at the head of `order` has had its turn. -/
def passTurn (s : State) : State := { s with order := s.order.tail }

/-- The turn passes to the port `p`'s event: it is the port being served. -/
def servePort (p : Port) (s : State) : State := { passTurn s with port := p }

/-- The word at the head of the port's input is taken. -/
def takeWord (p : Port) (s : State) : State :=
  s.setPortState p { s.portState p with incoming := (s.portState p).incoming.tail }

/-- R58: a word on the port `s.port`. A word that decodes is executed; one that does not is answered `ILLEGAL`. -/
def runWord (w : Word) (s : State) : Result :=
  match decode w with
  | .ok i => exec i s
  | .error _ => .next (raiseError .illegal s)

/-- One event (R42). -/
def runEvent (e : Event) (s : State) : Result :=
  match e with
  | .idle => .next (passTurn s)
  | .tick => .next (refreshTick (passTurn s))
  | .command p w => runWord w (takeWord p (servePort p s))
  | .store p x rest => .next (makePendingStore x rest (servePort p s))

/-! ## What the outside presents (R50, R133) -/

/-- A tick is delivered after everything already in order (R116). -/
def deliverTick (s : State) : State := { s with order := s.order ++ [.timer] }

/-- A command word is presented on port `p`, and the port is given one turn, after everything already in order (R50). -/
def presentWord (p : Port) (w : Word) (s : State) : State :=
  let t := s.setPortState p { s.portState p with incoming := (s.portState p).incoming ++ [w] }
  { t with order := t.order ++ [.port p] }

/-- One more turn for port `p`, as the later stores of a SET_ALL need (R88). -/
def giveTurn (p : Port) (s : State) : State := { s with order := s.order ++ [.port p] }

/-- A line of a program listing (R63) is presented: a word on its port, or a tick; a SET_ALL line gives its port the four turns of its four
events (R88). A line that is not well formed presents nothing. DESIGN CHOICE, safe (log 21). -/
def presentLine (x : ListingLine) (s : State) : State :=
  if x.wellFormed then
    match x.agent, x.text.assemble with
    | .timer, _ => deliverTick s
    | .port p, some (.setAll m) => giveTurn p (giveTurn p (giveTurn p (presentWord p (encode (.setAll m)) s)))
    | .port p, some i => presentWord p (encode i) s
    | .port _, none => s
  else s

/-- A word is put where the very next step takes it: in front of port S's input, with nothing pending on port S and port S next in order
(DESIGN CHOICE; log 2). -/
def placeWord (w : Word) (s : State) : State :=
  { s with
    portS := { s.portS with pending := [], incoming := w :: s.portS.incoming }
    order := .port .S :: s.order }

end Sys2Proof.Machine
end

