-- ==== Sys2Proof/Machine/Step.lean ====
section
/-! DEFINITION. One step of the machine: the next event (R42). -/

namespace Sys2Proof.Machine

/-- One event of the run (R42). -/
def step (s : State) : Host.Outcome State Fault Refusal := runEvent (nextEvent s) s

/-- The state with an instruction, numbered as the opcode table numbers its bits, where the next step takes it: a word on port S (log 2). -/
def State.withFetchWord (s : State) (nbits w : Nat) : State := placeWord (tableWord nbits w) s

end Sys2Proof.Machine
end

