-- ==== Sys2Proof/Machine/Observe.lean ====
section
/-! DEFINITION. What an observer sees: the columns and the lit LEDs, the emitted byte sequence, the state of the lines at every instant of the trace, and what a run stores and ticks (R16, R17, R60, R130, R131, D30). -/

namespace Sys2Proof.Machine

/-! ## Columns and LEDs -/

/-- R130: `COL[b] = CHAIN.OUT[15 - b]`, that is `COL = bitrev16(CHAIN.OUT)`. -/
def columns (c : Chain) : Mask := c.out.reverse

/-- R131: the LED at row `l`, column `b` is lit iff its row line is high and its column is on. -/
def lit (x : Wires) (l : Level) (b : Fin 16) : Bool := x.pins.row.getLsbD l && (columns x.chain).getLsbD b

/-- The number of row lines that are high (`popcount`, 00_scope.md section 5.1). -/
def rowsHigh (v : BitVec 4) : Nat := ((List.range 4).filter v.getLsbD).length

/-! ## The trace -/

/-- `drive` for each event of a list in turn (R18). -/
def driveAll (es : List PinEvent) (s : State) : State := es.foldl (fun t e => drive e t) s

/-- The levels of the lines after a span of events that starts with the levels `p` (R16): one sampled instant. -/
def pinsAfter (p : Pins) (es : List PinEvent) : Pins := es.foldl Pins.write p

/-- The lines and the chain after a span of events (R18, R126, D30). -/
def wiresAfter (x : Wires) (es : List PinEvent) : Wires := es.foldl Wires.react x

/-- R17: what an observer of level changes alone sees of a span that starts with the levels `p`. -/
def levelChanges : Pins → List PinEvent → List PinEvent
  | _, [] => []
  | p, e :: es =>
    if p.write e = p then levelChanges p es else e :: levelChanges (p.write e) es

/-- R60: the value of PIN.DATA at every `(CLK, 1)` event of a span that starts with the data line at `d`. -/
def emittedBits : Bool → List PinEvent → List Bool
  | _, [] => []
  | d, e :: es =>
    match e with
    | .data v => emittedBits v es
    | .clk v => if v then d :: emittedBits d es else emittedBits d es
    | .latch _ => emittedBits d es
    | .clrn _ => emittedBits d es
    | .row _ => emittedBits d es

/-- R60: eight bits make a byte, the first as bit 0 and the eighth as bit 7. -/
def byteOfBits (b0 b1 b2 b3 b4 b5 b6 b7 : Bool) : Byte :=
  BitVec.ofBool b7 ++ (BitVec.ofBool b6 ++ (BitVec.ofBool b5 ++ (BitVec.ofBool b4 ++
    (BitVec.ofBool b3 ++ (BitVec.ofBool b2 ++ (BitVec.ofBool b1 ++ BitVec.ofBool b0))))))

/-- R60: the bits grouped in eights; bits that do not fill a group make no byte. -/
def bytesOfBits : List Bool → List Byte
  | b0 :: b1 :: b2 :: b3 :: b4 :: b5 :: b6 :: b7 :: rest => byteOfBits b0 b1 b2 b3 b4 b5 b6 b7 :: bytesOfBits rest
  | _ => []

/-- R60: the emitted byte sequence of a span that starts with the data line at `d`. -/
def emittedBytes (d : Bool) (es : List PinEvent) : List Byte := bytesOfBits (emittedBits d es)

/-! ## The pin events of each operation, as its rule lists them -/

/-- One bit on the wire: `(DATA, b), (CLK, 1), (CLK, 0)` (R70). -/
def clockedBit (b : Bool) : List PinEvent := [.data b, .clk true, .clk false]

/-- The 25 pin events of WRITE_BYTE (R70): eight groups, `value[0]` first, then `(DATA, 0)`. -/
def byteEvents (v : Byte) : List PinEvent :=
  clockedBit v[0] ++ clockedBit v[1] ++ clockedBit v[2] ++ clockedBit v[3] ++
    clockedBit v[4] ++ clockedBit v[5] ++ clockedBit v[6] ++ clockedBit v[7] ++ [.data false]

/-- The 2 pin events of LATCH (R71). -/
def latchEvents : List PinEvent := [.latch true, .latch false]

/-- The 4 pin events of CLEAR (R72). -/
def clearEvents : List PinEvent := [.clrn false, .clrn true, .latch true, .latch false]

/-- The 52 pin events of WRITE_FRAME (R73): `mask[0]` to `mask[7]`, `(DATA, 0)`, `mask[8]` to `mask[15]`, `(DATA, 0)`, one latch pulse. -/
def frameEvents (m : Mask) : List PinEvent :=
  clockedBit m[0] ++ clockedBit m[1] ++ clockedBit m[2] ++ clockedBit m[3] ++
    clockedBit m[4] ++ clockedBit m[5] ++ clockedBit m[6] ++ clockedBit m[7] ++ [.data false] ++
    (clockedBit m[8] ++ clockedBit m[9] ++ clockedBit m[10] ++ clockedBit m[11] ++
      clockedBit m[12] ++ clockedBit m[13] ++ clockedBit m[14] ++ clockedBit m[15] ++ [.data false]) ++
    [.latch true, .latch false]

/-- The row value of each level (R80): `0b0001`, `0b0010`, `0b0100`, `0b1000`. -/
def rowOfLevel (l : Level) : BitVec 4 :=
  match l with
  | 0 => 0b0001#4
  | 1 => 0b0010#4
  | 2 => 0b0100#4
  | 3 => 0b1000#4

/-- The 2 pin events of SELECT (R80): all rows cleared, then the one row. -/
def selectEvents (l : Level) : List PinEvent := [.row 0b0000#4, .row (rowOfLevel l)]

/-- The 54 pin events of a tick that draws level `l` with mask `m` (R95). -/
def tickEvents (l : Level) (m : Mask) : List PinEvent := selectEvents l ++ frameEvents m

/-- A state in which the pin events `es` have been driven (R18): the lines and the chain after them, and TRACE with them at its end. -/
def withEvents (es : List PinEvent) (s : State) : State :=
  { s with wires := wiresAfter s.wires es, trace := s.trace ++ es }

/-- A state in which port `p` has returned the response word `w`. -/
def withResponse (p : Port) (w : Word) (s : State) : State :=
  match p with
  | .F => { s with portF := { s.portF with responses := s.portF.responses ++ [w] } }
  | .S => { s with portS := { s.portS with responses := s.portS.responses ++ [w] } }

/-! ## Runs -/

/-- The FrameBuffer store an operation makes in the event that decodes it, if it makes one (R85, R87, R88). -/
def operationStore (i : Instr) : Option PendingStore :=
  match i with
  | .writeByte _ => none
  | .latch => none
  | .clear => none
  | .writeFrame _ => none
  | .select _ => none
  | .setLevel level mask => (levelOperand level).map fun l => ⟨l, mask⟩
  | .setAll mask => some ⟨0, mask⟩
  | .getLevel _ => none
  | .tick => none

/-- The FrameBuffer store an event makes, if it makes one (R85, R87, R88). -/
def eventStore (e : Event) : Option PendingStore :=
  match e with
  | .idle => none
  | .tick => none
  | .store _ x _ => some x
  | .command _ w =>
    match decode w with
    | .ok i => operationStore i
    | .error _ => none

/-- Whether an event is a tick: one on the tick input, or the port S command (R95, R99). -/
def eventTicks (e : Event) : Bool :=
  match e with
  | .idle => false
  | .tick => true
  | .store _ _ _ => false
  | .command p w => decide (p = .S) && decide (w = encode .tick)

/-- The FrameBuffer stores of the first `k` steps from `s`, oldest first. -/
def runStores : Nat → State → List PendingStore
  | 0, _ => []
  | k + 1, s =>
    (eventStore (nextEvent s)).toList ++
      match step s with
      | .next t => runStores k t
      | _ => []

/-- How many of the first `k` steps from `s` are ticks. -/
def runTicks : Nat → State → Nat
  | 0, _ => 0
  | k + 1, s =>
    (if eventTicks (nextEvent s) then 1 else 0) +
      match step s with
      | .next t => runTicks k t
      | _ => 0

end Sys2Proof.Machine
end

