-- ==== Sys2Proof/Safety.lean ====
section
/-! DEFINITION. What counts as a good state of the refresh core: the invariants of `10_state.md` R25 and what R16, R18 and R19 say of the trace and of PENDING. -/

namespace Sys2Proof.Machine

/-- R25 (d): between events PIN.CLK = 0, PIN.LATCH = 0, PIN.CLRn = 1. -/
def LinesIdle (p : Pins) : Prop := p.clk = false ∧ p.latch = false ∧ p.clrn = true

/-- R16: the lines are where the trace since reset leaves them. -/
def TraceGivesPins (s : State) : Prop := s.wires.pins = pinsAfter Pins.idle s.trace

/-- R25 (c): at most one row line is high, at every sampled instant. -/
def OneRowAtEveryInstant (s : State) : Prop :=
  ∀ es : List PinEvent, es <+: s.trace → rowsHigh (pinsAfter Pins.idle es).row ≤ 1

/-- R19, R88: PENDING holds what a SET_ALL still owes, a last part of its three later stores. -/
def PendingOwed (l : List PendingStore) : Prop := ∃ m : Mask, l <:+ setAllRemainder m

/-- The invariant of the refresh core (R25, R16, R19). -/
structure Inv (s : State) : Prop where
  lines : LinesIdle s.wires.pins
  pins : TraceGivesPins s
  rows : OneRowAtEveryInstant s
  owedF : PendingOwed s.portF.pending
  owedS : PendingOwed s.portS.pending

/-- D30: the lines and the chain are functions of the trace and of what the chain held at reset, here `c`. -/
def ExplainedByTrace (c : Chain) (s : State) : Prop :=
  s.wires = wiresAfter { pins := Pins.idle, chain := c } s.trace

/-- A run of `k` steps that neither faults nor is refused. -/
def RunsTo (k : Nat) (s t : State) : Prop := Sys2Proof.core.run k s = Host.Outcome.next t

end Sys2Proof.Machine
end

