-- ==== Sys2Proof/Certificates/Slice0/Obligations.lean ====
section
/-! DEFINITION. The statements for the provers. Each is a claim about the refresh core; none is about a program. -/

namespace Sys2Proof.Machine

/-! ## Words the statements share -/

/-- R55: a 1 in a must-be-zero field of a word whose operation code is defined, read off the rule's list. -/
def MustBeZeroBroken (w : Word) : Prop :=
  zField w ≠ 0#4 ∨
  (opField w ∈ [0x1#4, 0x2#4, 0x3#4, 0x4#4, 0x7#4, 0x9#4] ∧ levelField w ≠ 0#8) ∨
  (opField w ∈ [0x2#4, 0x3#4, 0x5#4, 0x8#4, 0x9#4] ∧ immField w ≠ 0#16) ∨
  (opField w = 0x1#4 ∧ immHighField w ≠ 0#8)

/-- R59: the reserved operation codes, `0x0` and `0xA` to `0xF`. -/
def OpReserved (w : Word) : Prop := opField w = 0x0#4 ∨ 0xA ≤ (opField w).toNat

/-- The next event is the command `w` of port `p`: the port has its turn, owes no store, and `w` is the word it takes. -/
structure Presented (p : Port) (w : Word) (ws : List Word) (rest : List Agent) (s : State) : Prop where
  turn : s.order = .port p :: rest
  nothingOwed : (s.portState p).pending = []
  word : (s.portState p).incoming = w :: ws

/-- The state in which port `p` has taken its word and is being served. -/
def wordTaken (p : Port) (ws : List Word) (rest : List Agent) (s : State) : State :=
  match p with
  | .F => { s with order := rest, port := .F, portF := { s.portF with incoming := ws } }
  | .S => { s with order := rest, port := .S, portS := { s.portS with incoming := ws } }

/-- R88: the state in which port `p` has made the store `x` at the head of its PENDING list, whose tail is `more`; the store that empties the
list returns the response `OK`. -/
def storeMade (p : Port) (x : PendingStore) (more : List PendingStore) (rest : List Agent) (s : State) : State :=
  let answer : List Word := if more = [] then [0x00000000#32] else []
  match p with
  | .F => { s with
      fb := s.fb.set x.level x.mask, order := rest, port := .F
      portF := { s.portF with pending := more, responses := s.portF.responses ++ answer } }
  | .S => { s with
      fb := s.fb.set x.level x.mask, order := rest, port := .S
      portS := { s.portS with pending := more, responses := s.portS.responses ++ answer } }

/-- The mask of the latest store to level `l` in a list of stores, oldest first, or `init` if there is none (R44). -/
def latestStore (l : Level) (init : Mask) (xs : List PendingStore) : Mask :=
  xs.foldl (fun v x => if x.level = l then x.mask else v) init

/-- R127: the reaction of a chain that acts on falling edges where R126's acts on rising ones. -/
def fallingReact (x : Wires) (e : PinEvent) : Wires :=
  { pins := x.pins.write e
    chain :=
      match e with
      | .clrn v => if v then x.chain else { x.chain with sr := 0x0000#16 }
      | .clk v =>
        if x.pins.clk && !v then
          if x.pins.clrn then { x.chain with sr := shiftIn x.chain.sr x.pins.data }
          else { x.chain with sr := 0x0000#16 }
        else x.chain
      | .latch v => if x.pins.latch && !v then { x.chain with out := x.chain.sr } else x.chain
      | .data _ => x.chain
      | .row _ => x.chain }

/-- R24: one pin event changes no line but its own, the shift stage only on CLK and CLRn, and the output stage only on LATCH. -/
structure MovesItsOwn (x : Wires) (e : PinEvent) : Prop where
  data : (x.react e).pins.data ≠ x.pins.data → ∃ v, e = .data v
  clk : (x.react e).pins.clk ≠ x.pins.clk → ∃ v, e = .clk v
  latch : (x.react e).pins.latch ≠ x.pins.latch → ∃ v, e = .latch v
  clrn : (x.react e).pins.clrn ≠ x.pins.clrn → ∃ v, e = .clrn v
  row : (x.react e).pins.row ≠ x.pins.row → ∃ v, e = .row v
  sr : (x.react e).chain.sr ≠ x.chain.sr → ∃ v, e = .clk v ∨ e = .clrn v
  out : (x.react e).chain.out ≠ x.chain.out → ∃ v, e = .latch v

/-- The next event is a command of port S that decodes to an operation with one of these mnemonics. -/
def RunsOnPortS (s : State) (ms : List Mnemonic) : Prop :=
  ∃ w i, nextEvent s = .command .S w ∧ decode w = .ok i ∧ i.mnemonic ∈ ms

end Sys2Proof.Machine

open Sys2Proof Sys2Proof.Machine

/-! ## Encoding -/

/-- The worked encodings of `30_encoding.md` section 7 and the illegal words of `95_test_vectors.md` section 2.1. -/
def Obligations.SpecWordsDecodeAsListed : Prop :=
  decode 0x100000EF#32 = .ok (.writeByte 0xEF#8) ∧
  decode 0x20000000#32 = .ok .latch ∧
  decode 0x30000000#32 = .ok .clear ∧
  decode 0x4000BEEF#32 = .ok (.writeFrame 0xBEEF#16) ∧
  decode 0x50020000#32 = .ok (.select 2#8) ∧
  decode 0x50FF0000#32 = .ok (.select 255#8) ∧
  decode 0x6002BEEF#32 = .ok (.setLevel 2#8 0xBEEF#16) ∧
  decode 0x7000FFFF#32 = .ok (.setAll 0xFFFF#16) ∧
  decode 0x80020000#32 = .ok (.getLevel 2#8) ∧
  decode 0x90000000#32 = .ok .tick ∧
  decode 0x100001EF#32 = .error .mustBeZero ∧
  decode 0x51020000#32 = .error .mustBeZero ∧
  decode 0xA0000000#32 = .error .reservedOp

/-- R51 to R55: no bit of an operation is dropped by the encoding. -/
def Obligations.EveryOperationDecodesFromItsEncoding : Prop :=
  ∀ i : Instr, decode (encode i) = .ok i

/-- R55, D17: every word has one meaning; a word that decodes is the encoding of what it decodes to. -/
def Obligations.EveryDecodedWordIsAnEncoding : Prop :=
  ∀ (w : Word) (i : Instr), decode w = .ok i → encode i = w

/-- R52: "No two rows overlap, because `op` differs in every row and every mask covers `op`." -/
def Obligations.NoWordSelectsTwoRows : Prop :=
  ∀ w : Word, ∀ r₁ ∈ opcodeRows, ∀ r₂ ∈ opcodeRows, r₁.selects w = true → r₂.selects w = true → r₁ = r₂

/-- R55: which words have a 1 in a must-be-zero field, and that exactly they and the reserved codes are illegal. -/
def Obligations.MustBeZeroFieldsAreChecked : Prop :=
  ∀ w : Word,
    (decode w = .error .reservedOp ↔ OpReserved w) ∧
    (decode w = .error .mustBeZero ↔ ¬ OpReserved w ∧ MustBeZeroBroken w)

/-- R63: the listing notation and the operations are in one-to-one correspondence. -/
def Obligations.ListingsNameOperations : Prop :=
  (∀ i : Instr, i.wellFormed = true ∧ i.listing.assemble = some i) ∧
  (∀ x : Listing, x.wellFormed = true → ∃ i : Instr, x.assemble = some i ∧ i.listing = x) ∧
  (∀ x : Listing, x.wellFormed = false → x.assemble = none)

/-! ## What a step is -/

/-- R50, R58 step 4: a command that decodes is executed in the state in which its word has been taken. -/
def Obligations.StepRunsTheDecodedCommand : Prop :=
  ∀ (p : Port) (w : Word) (ws : List Word) (rest : List Agent) (s : State) (i : Instr),
    Presented p w ws rest s → decode w = .ok i →
    step s = exec i (wordTaken p ws rest s)

/-- R59: the illegal words, and that each is answered `ILLEGAL` on either port with no effect. -/
def Obligations.IllegalWordsAreAnsweredIllegal : Prop :=
  (∀ (p : Port) (w : Word) (ws : List Word) (rest : List Agent) (s : State),
    Presented p w ws rest s → (OpReserved w ∨ MustBeZeroBroken w) →
    step s = .next (withResponse p 0x02000000#32 (wordTaken p ws rest s))) ∧
  (∀ w : Word, ¬ (OpReserved w ∨ MustBeZeroBroken w) → ∃ i, decode w = .ok i) ∧
  OpReserved 0x00000000#32 ∧ OpReserved 0xFFFFFFFF#32

/-- R116, R95: a tick on the tick input is one TICK operation, whole, and returns no response. -/
def Obligations.StepTakesTheTick : Prop :=
  ∀ (rest : List Agent) (s : State), s.order = .timer :: rest →
    step s = .next
      { withEvents (tickEvents (cursorLevel s.cursor) (s.readLevel (cursorLevel s.cursor))) s with
        cursor := s.cursor + 1#2, order := rest }

/-- R19, R88: while PENDING[p] is not empty the port's event is the store at its head, whatever words wait. -/
def Obligations.StepMakesTheOwedStore : Prop :=
  ∀ (p : Port) (x : PendingStore) (more : List PendingStore) (rest : List Agent) (s : State),
    s.order = .port p :: rest → (s.portState p).pending = x :: more →
    step s = .next (storeMade p x more rest s)

/-- The model's choice (log 8): with no event in order, or a turn for a port that has none, nothing happens. -/
def Obligations.IdleTurnsChangeNothing : Prop :=
  (∀ s : State, s.order = [] → step s = .next s) ∧
  (∀ (p : Port) (rest : List Agent) (s : State),
    s.order = .port p :: rest → (s.portState p).pending = [] → (s.portState p).incoming = [] →
    step s = .next { s with order := rest })

/-- R110, R114, R132: nothing stops the untimed core. -/
def Obligations.EveryStepAnswersANextState : Prop :=
  ∀ s : State, ∃ t : State, step s = .next t

/-- The model's choice (log 2): a placed instruction is the next port S command. -/
def Obligations.PlacedInstructionRunsNext : Prop :=
  ∀ (nbits w : Nat) (i : Instr) (s : State), decodeTableWord nbits w = some i →
    step (s.withFetchWord nbits w) = exec i { s with port := .S, portS := { s.portS with pending := [] } }

/-! ## Errors -/

/-- R113: on port F everything but SET_LEVEL and SET_ALL is answered `NOT_PERMITTED` and has no effect. -/
def Obligations.PortFMayOnlyStore : Prop :=
  ∀ (i : Instr) (s : State), s.port = .F → i.mnemonic ≠ .SET_LEVEL → i.mnemonic ≠ .SET_ALL →
    exec i s = .next (withResponse .F 0x03000000#32 s)

/-- R111, R91: which operations end in `BOUNDS`, and that such an operation changes nothing but the responses. -/
def Obligations.BoundsErrorsAreExactlyTheseThree : Prop :=
  ∀ (i : Instr) (s : State), ∃ t, exec i s = .next t ∧
    let cause : Prop :=
      (∃ (level : Byte) (mask : Mask), i = .setLevel level mask ∧ 4 ≤ level.toNat) ∨
      (s.port = .S ∧ ∃ level : Byte, (i = .select level ∨ i = .getLevel level) ∧ 4 ≤ level.toNat)
    ((t.portState s.port).responses = (s.portState s.port).responses ++ [0x01000000#32] ↔ cause) ∧
    (cause → t = withResponse s.port 0x01000000#32 s)

/-- R58: the decode procedure, in its order, on the rows of the opcode table. -/
def Obligations.CommandsAreJudgedInOrder : Prop :=
  ∀ (p : Port) (w : Word) (ws : List Word) (rest : List Agent) (s : State), Presented p w ws rest s →
    ((∀ r ∈ opcodeRows, r.selects w = false) →
      step s = .next (withResponse p 0x02000000#32 (wordTaken p ws rest s))) ∧
    (∀ r ∈ opcodeRows, r.selects w = true →
      (p = .F ∧ r.mnemonic ∉ [.SET_LEVEL, .SET_ALL] →
        step s = .next (withResponse p 0x03000000#32 (wordTaken p ws rest s))) ∧
      ((p = .S ∨ r.mnemonic ∈ [.SET_LEVEL, .SET_ALL]) →
        (r.mnemonic ∈ [.SELECT, .SET_LEVEL, .GET_LEVEL] ∧ 4 ≤ (levelField w).toNat →
          step s = .next (withResponse p 0x01000000#32 (wordTaken p ws rest s))) ∧
        (¬ (r.mnemonic ∈ [.SELECT, .SET_LEVEL, .GET_LEVEL] ∧ 4 ≤ (levelField w).toNat) →
          step s = exec (operation r.mnemonic w) (wordTaken p ws rest s) ∧
          ∃ t, step s = .next t ∧
            (r.mnemonic = .SET_ALL →
              (t.portState p).responses = (s.portState p).responses ∧
              (t.portState p).pending = [⟨1, immField w⟩, ⟨2, immField w⟩, ⟨3, immField w⟩]) ∧
            (r.mnemonic ≠ .SET_ALL → ∃ data : Mask,
              (t.portState p).responses = (s.portState p).responses ++ [0x0000#16 ++ data] ∧
              (r.mnemonic ≠ .GET_LEVEL → data = 0#16)))))

/-! ## ShiftRegisterLink -/

/-- WRITE_BYTE (R70) on port S: exactly its 25 pin events, nothing else, and `OK`. -/
def Obligations.WriteByteDrivesItsEvents : Prop :=
  ∀ (value : Byte) (s : State), s.port = .S →
    exec (.writeByte value) s = .next (withResponse .S 0x00000000#32 (withEvents (byteEvents value) s)) ∧
    (byteEvents value).length = 25

/-- LATCH (R71) on port S: exactly its 2 pin events, nothing else, and `OK`. -/
def Obligations.LatchDrivesItsEvents : Prop :=
  ∀ s : State, s.port = .S →
    exec .latch s = .next (withResponse .S 0x00000000#32 (withEvents [.latch true, .latch false] s))

/-- CLEAR (R72) on port S: exactly its 4 pin events, nothing else, and `OK`. -/
def Obligations.ClearDrivesItsEvents : Prop :=
  ∀ s : State, s.port = .S →
    exec .clear s = .next
      (withResponse .S 0x00000000#32 (withEvents [.clrn false, .clrn true, .latch true, .latch false] s))

/-- WRITE_FRAME (R73) on port S: exactly its 52 pin events, nothing else, and `OK`. -/
def Obligations.WriteFrameDrivesItsEvents : Prop :=
  ∀ (mask : Mask) (s : State), s.port = .S →
    exec (.writeFrame mask) s = .next (withResponse .S 0x00000000#32 (withEvents (frameEvents mask) s)) ∧
    (frameEvents mask).length = 52

/-- WRITE_BYTE's effect on the chain (`40_shift_register_link.md`, WRITE_BYTE; the spec's own inference from R126). -/
def Obligations.WriteByteShiftsItsByteIn : Prop :=
  ∀ (value : Byte) (s : State), s.port = .S → LinesIdle s.wires.pins →
    ∃ t, exec (.writeByte value) s = .next t ∧
      t.wires.chain.sr = (s.wires.chain.sr <<< 8) ||| value.reverse.setWidth 16 ∧
      t.wires.chain.out = s.wires.chain.out ∧
      t.wires.pins = { s.wires.pins with data := false }

/-- LATCH's effect on the chain (`40_shift_register_link.md`, LATCH; the spec's own inference from R126). -/
def Obligations.LatchCopiesTheShiftStage : Prop :=
  ∀ s : State, s.port = .S → LinesIdle s.wires.pins →
    ∃ t, exec .latch s = .next t ∧
      t.wires.chain = { sr := s.wires.chain.sr, out := s.wires.chain.sr } ∧
      t.wires.pins = s.wires.pins

/-- CLEAR's effect on the chain, and that the outputs stay up until the latch pulse (`40_shift_register_link.md`, CLEAR; conflict C2; the
spec's own inference from R126). -/
def Obligations.ClearBlanksTheChain : Prop :=
  ∀ s : State, s.port = .S → LinesIdle s.wires.pins →
    (∃ t, exec .clear s = .next t ∧
      t.wires.chain = { sr := 0x0000#16, out := 0x0000#16 } ∧ t.wires.pins = s.wires.pins) ∧
    (wiresAfter s.wires [.clrn false, .clrn true]).chain = { sr := 0x0000#16, out := s.wires.chain.out }

/-- WRITE_FRAME's effect on the chain and the columns, whatever the chain held (`40_shift_register_link.md`, WRITE_FRAME; the spec's own
inference from R126 and R130). -/
def Obligations.WriteFrameShowsItsMask : Prop :=
  ∀ (mask : Mask) (s : State), s.port = .S → LinesIdle s.wires.pins →
    ∃ t, exec (.writeFrame mask) s = .next t ∧
      t.wires.chain = { sr := mask.reverse, out := mask.reverse } ∧
      columns t.wires.chain = mask ∧
      t.wires.pins = { s.wires.pins with data := false }

/-- R76 (the spec's own inference): what one byte and a latch show, and what three bytes and a latch show. -/
def Obligations.PartialWritesShowStaleBits : Prop :=
  ∀ (s : State), s.port = .S → LinesIdle s.wires.pins →
    (∀ v : Byte, ∃ t u, exec (.writeByte v) s = .next t ∧ exec .latch t = .next u ∧
      u.wires.chain.out.extractLsb' 0 8 = v.reverse ∧
      u.wires.chain.out.extractLsb' 8 8 = s.wires.chain.sr.extractLsb' 0 8 ∧
      (columns u.wires.chain).extractLsb' 8 8 = v ∧
      (s.wires.chain.out = s.wires.chain.sr →
        (columns u.wires.chain).extractLsb' 0 8 = (columns s.wires.chain).extractLsb' 8 8)) ∧
    (∀ a b c : Byte, ∃ t₁ t₂ t₃ u, exec (.writeByte a) s = .next t₁ ∧ exec (.writeByte b) t₁ = .next t₂ ∧
      exec (.writeByte c) t₂ = .next t₃ ∧ exec .latch t₃ = .next u ∧ columns u.wires.chain = c ++ b)

/-- R75: within WRITE_FRAME and TICK the latch pulse comes after all 16 clock pulses, and the outputs keep the previously latched value
until it comes. -/
def Obligations.OutputsHoldWhileBitsAreShifted : Prop :=
  ∀ s : State, s.port = .S →
    (∀ m : Mask, ∃ t es, exec (.writeFrame m) s = .next t ∧ t.trace = s.trace ++ es ∧
      (emittedBits s.wires.pins.data (es.take 50)).length = 16 ∧ es.drop 50 = [.latch true, .latch false] ∧
      ∀ k, k ≤ 50 → (wiresAfter s.wires (es.take k)).chain.out = s.wires.chain.out) ∧
    (∃ t es, exec .tick s = .next t ∧ t.trace = s.trace ++ es ∧
      (emittedBits s.wires.pins.data (es.take 52)).length = 16 ∧ es.drop 52 = [.latch true, .latch false] ∧
      ∀ k, k ≤ 52 → (wiresAfter s.wires (es.take k)).chain.out = s.wires.chain.out)

/-- R127 (the spec's own inference): a chain that acts on falling edges ends every operation as R126's chain does. -/
def Obligations.TheEdgeChoiceDoesNotMatter : Prop :=
  ∀ (i : Instr) (s t : State), LinesIdle s.wires.pins → exec i s = .next t →
    ∃ es, t.trace = s.trace ++ es ∧ es.foldl fallingReact s.wires = t.wires

/-- R17 and D16 (the spec's choice to record redundant writes): leaving out of a trace the writes that do not change their line changes
nothing at the lines or in the chain, provided a chain held in clear holds zero. -/
def Obligations.RedundantWritesDoNotMatter : Prop :=
  ∀ (es : List PinEvent) (x : Wires), (x.pins.clrn = false → x.chain.sr = 0x0000#16) →
    wiresAfter x (levelChanges x.pins es) = wiresAfter x es

/-! ## RowSelector -/

/-- SELECT (R80) on port S with a level of 0 to 3: the two row events, nothing else, and `OK`; the chain does not react. -/
def Obligations.SelectSwitchesTheRow : Prop :=
  ∀ (level : Byte) (s : State), s.port = .S → level.toNat < 4 →
    exec (.select level) s = .next
      (withResponse .S 0x00000000#32
        { s with
          wires := { s.wires with pins := { s.wires.pins with row := 0b0001#4 <<< level.toNat } }
          trace := s.trace ++ [.row 0b0000#4, .row (0b0001#4 <<< level.toNat)] })

/-- R82: after a SELECT that returns `OK` exactly the line of its level is high. -/
def Obligations.SelectLeavesExactlyItsRowHigh : Prop :=
  ∀ (level : Byte) (s : State), s.port = .S → level.toNat < 4 →
    ∃ t, exec (.select level) s = .next t ∧
      t.portS.responses = s.portS.responses ++ [0x00000000#32] ∧
      t.wires.pins.row = 0b0001#4 <<< level.toNat ∧
      rowsHigh t.wires.pins.row = 1 ∧
      ∀ k : Level, (t.wires.pins.row.getLsbD k = true ↔ k.val = level.toNat)

/-- R81: in the pin events of every step a row is set only right after all rows have been cleared, and at most one line is high at every
instant. -/
def Obligations.RowsAreClearedBeforeOneIsSet : Prop :=
  ∀ s t : State, step s = .next t → rowsHigh s.wires.pins.row ≤ 1 →
    ∃ es, t.trace = s.trace ++ es ∧
      (∀ fs, fs <+: es → rowsHigh (pinsAfter s.wires.pins fs).row ≤ 1) ∧
      (∀ fs v gs, es = fs ++ .row v :: gs → v ≠ 0b0000#4 → ∃ hs, fs = hs ++ [.row 0b0000#4])

/-- R61, R27 (the spec's own inferences): a step only adds to TRACE, and the row values it adds are the five legal ones. -/
def Obligations.TraceGrowsByLegalEvents : Prop :=
  ∀ s t : State, step s = .next t →
    ∃ es, t.trace = s.trace ++ es ∧
      ∀ v, .row v ∈ es → v ∈ [0b0000#4, 0b0001#4, 0b0010#4, 0b0100#4, 0b1000#4]

/-! ## FrameBuffer -/

/-- SET_LEVEL (R85) on either port with a level of 0 to 3: one cell overwritten, nothing else, and `OK`. -/
def Obligations.SetLevelOverwritesOneCell : Prop :=
  ∀ (level : Byte) (mask : Mask) (s : State) (h : level.toNat < 4),
    exec (.setLevel level mask) s = .next
      (withResponse s.port 0x00000000#32 { s with fb := s.fb.set level.toNat mask })

/-- GET_LEVEL (R86) on port S with a level of 0 to 3: the cell in the response, and nothing else. -/
def Obligations.GetLevelReturnsTheCell : Prop :=
  ∀ (level : Byte) (s : State) (h : level.toNat < 4), s.port = .S →
    exec (.getLevel level) s = .next (withResponse .S (0x0000#16 ++ s.fb[level.toNat]) s)

/-- SET_ALL (R87, R88) on either port, the event that decodes it: the store to level 0, the other three owed, and no response yet. -/
def Obligations.SetAllMakesItsFirstStore : Prop :=
  ∀ (mask : Mask) (s : State),
    (s.port = .F → exec (.setAll mask) s = .next
      { s with fb := s.fb.set 0 mask, portF := { s.portF with pending := [⟨1, mask⟩, ⟨2, mask⟩, ⟨3, mask⟩] } }) ∧
    (s.port = .S → exec (.setAll mask) s = .next
      { s with fb := s.fb.set 0 mask, portS := { s.portS with pending := [⟨1, mask⟩, ⟨2, mask⟩, ⟨3, mask⟩] } })

/-- R87: a SET_ALL whose port has four turns ends with the FrameBuffer four SET_LEVELs leave, one response, and nothing owed. -/
def Obligations.SetAllEqualsFourSetLevels : Prop :=
  ∀ (p : Port) (mask : Mask) (ws : List Word) (rest : List Agent) (s : State),
    Presented p (encode (.setAll mask)) ws (.port p :: .port p :: .port p :: rest) s →
    ∃ t, RunsTo 4 s t ∧
      t = withResponse p 0x00000000#32 { wordTaken p ws rest s with fb := #v[mask, mask, mask, mask] } ∧
      ∃ t₀ t₁ t₂ t₃, exec (.setLevel 0#8 mask) s = .next t₀ ∧ exec (.setLevel 1#8 mask) t₀ = .next t₁ ∧
        exec (.setLevel 2#8 mask) t₁ = .next t₂ ∧ exec (.setLevel 3#8 mask) t₂ = .next t₃ ∧ t.fb = t₃.fb

/-- R88 (program P3's third outcome): two ticks inside a SET_ALL, the earlier one draws the new mask and the later one an old one, so SET_ALL
is not atomic. -/
def Obligations.TicksInsideSetAllSeeNewThenOld : Prop :=
  ∀ (mask : Mask) (ws : List Word) (rest : List Agent) (s : State),
    Presented .F (encode (.setAll mask)) ws (.timer :: .timer :: rest) s → s.cursor = 0#2 →
    ∃ t, RunsTo 3 s t ∧ t.trace = s.trace ++ tickEvents 0 mask ++ tickEvents 1 (s.readLevel 1)

/-- R89: over any run, a read of a level, by GET_LEVEL on port S, by a tick or by the TICK command, gives the whole mask of the latest store
to it, or what the level held at the start. -/
def Obligations.ReadsReturnTheLatestStore : Prop :=
  ∀ (k : Nat) (s t : State) (l : Level), RunsTo k s t →
    let latest : Mask := latestStore l (s.readLevel l) (runStores k s)
    t.readLevel l = latest ∧
    (∀ ws rest, Presented .S (encode (.getLevel (BitVec.ofNat 8 l.val))) ws rest t →
      step t = .next (withResponse .S (0x0000#16 ++ latest) (wordTaken .S ws rest t))) ∧
    (cursorLevel t.cursor = l →
      (∀ rest, t.order = .timer :: rest → ∃ u, step t = .next u ∧ u.trace = t.trace ++ tickEvents l latest) ∧
      (∀ ws rest, Presented .S (encode .tick) ws rest t →
        ∃ u, step t = .next u ∧ u.trace = t.trace ++ tickEvents l latest))

/-- R90: the round trip of SET_LEVEL, on either port, and GET_LEVEL on port S, over any run with no store to the level in between. -/
def Obligations.StoredLevelsReadBack : Prop :=
  ∀ (level : Byte) (mask : Mask) (s : State), level.toNat < 4 →
    ∃ s₁, exec (.setLevel level mask) s = .next s₁ ∧
      (s₁.portState s.port).responses = (s.portState s.port).responses ++ [0x00000000#32] ∧
      ∀ (k : Nat) (t : State), RunsTo k s₁ t → (∀ x ∈ runStores k s₁, x.level.val ≠ level.toNat) →
        exec (.getLevel level) { t with port := .S } =
          .next (withResponse .S (0x0000#16 ++ mask) { t with port := .S }) ∧
        ∀ ws rest, Presented .S (encode (.getLevel level)) ws rest t →
          step t = .next (withResponse .S (0x0000#16 ++ mask) (wordTaken .S ws rest t))

/-- S7, R89 (program P4): a store to the level a tick draws, in either order; the tick draws one whole mask or the other. -/
def Obligations.StoreRacingATickIsNeverTorn : Prop :=
  ∀ (level : Byte) (mask : Mask) (ws : List Word) (rest : List Agent) (s : State) (h : level.toNat < 4),
    s.cursor.toNat = level.toNat → s.portF.pending = [] → s.portF.incoming = encode (.setLevel level mask) :: ws →
    (∃ t, RunsTo 2 { s with order := .timer :: .port .F :: rest } t ∧
      t.trace = s.trace ++ tickEvents ⟨level.toNat, h⟩ (s.readLevel ⟨level.toNat, h⟩) ∧
      t.readLevel ⟨level.toNat, h⟩ = mask) ∧
    (∃ t, RunsTo 2 { s with order := .port .F :: .timer :: rest } t ∧
      t.trace = s.trace ++ tickEvents ⟨level.toNat, h⟩ mask ∧
      t.readLevel ⟨level.toNat, h⟩ = mask)

/-- R43 (the spec's own inference): a tick and a foreground store to another level commute, in the whole state. -/
def Obligations.TickCommutesWithAStoreToAnotherLevel : Prop :=
  ∀ (level : Byte) (mask : Mask) (ws : List Word) (rest : List Agent) (s : State),
    s.cursor.toNat ≠ level.toNat → s.portF.pending = [] → s.portF.incoming = encode (.setLevel level mask) :: ws →
    ∃ t, RunsTo 2 { s with order := .timer :: .port .F :: rest } t ∧
      RunsTo 2 { s with order := .port .F :: .timer :: rest } t

/-- R85 to R87, R24: the frame of every operation on the FrameBuffer: every cell but the one the operation stores to reads as before. -/
def Obligations.CellsNotStoredToReadAsBefore : Prop :=
  ∀ (i : Instr) (s t : State), exec i s = .next t →
    ∀ k : Level, (∀ x, operationStore i = some x → k ≠ x.level) → t.readLevel k = s.readLevel k

/-- R70 to R73, R80: the frame of the five pin operations on port S. -/
def Obligations.PinOperationsFrame : Prop :=
  ∀ (i : Instr) (s t : State), s.port = .S → exec i s = .next t →
    i.mnemonic ∈ [.WRITE_BYTE, .LATCH, .CLEAR, .WRITE_FRAME, .SELECT] →
    t.fb = s.fb ∧ (∀ k, t.readLevel k = s.readLevel k) ∧ t.cursor = s.cursor ∧ t.portF = s.portF ∧
    t.portS.pending = s.portS.pending ∧ t.portS.incoming = s.portS.incoming ∧
    t.order = s.order ∧ t.port = s.port ∧
    (i.mnemonic ≠ .SELECT → t.wires.pins.row = s.wires.pins.row) ∧
    (i.mnemonic ≠ .CLEAR → t.wires.pins.clrn = s.wires.pins.clrn) ∧
    (i.mnemonic ∈ [.LATCH, .CLEAR, .SELECT] →
      t.wires.pins.data = s.wires.pins.data ∧ t.wires.pins.clk = s.wires.pins.clk) ∧
    (i.mnemonic ∈ [.WRITE_BYTE, .SELECT] →
      t.wires.pins.latch = s.wires.pins.latch ∧ t.wires.chain.out = s.wires.chain.out) ∧
    (i.mnemonic ∈ [.LATCH, .SELECT] → t.wires.chain.sr = s.wires.chain.sr)

/-- R85 to R88: the frame of the three FrameBuffer operations on either port. -/
def Obligations.FrameBufferOperationsFrame : Prop :=
  ∀ (i : Instr) (s t : State), exec i s = .next t → i.mnemonic ∈ [.SET_LEVEL, .SET_ALL, .GET_LEVEL] →
    t.cursor = s.cursor ∧ t.wires = s.wires ∧ t.trace = s.trace ∧ t.order = s.order ∧ t.port = s.port ∧
    (∀ q, (t.portState q).incoming = (s.portState q).incoming) ∧
    (∀ q, q ≠ s.port → t.portState q = s.portState q) ∧
    (i.mnemonic ≠ .SET_ALL → (t.portState s.port).pending = (s.portState s.port).pending) ∧
    (i.mnemonic = .SET_ALL → (t.portState s.port).responses = (s.portState s.port).responses) ∧
    (i.mnemonic = .GET_LEVEL → t.fb = s.fb)

/-! ## RefreshScheduler -/

/-- TICK (R95) as a port S command: the 54 pin events of the level under the cursor, the cursor advanced, nothing else, and `OK`. -/
def Obligations.TickDrawsTheLevelUnderTheCursor : Prop :=
  ∀ (s : State), s.port = .S →
    exec .tick s = .next
      (withResponse .S 0x00000000#32
        { withEvents (tickEvents (cursorLevel s.cursor) (s.readLevel (cursorLevel s.cursor))) s with
          cursor := s.cursor + 1#2 }) ∧
    ∀ l m, (tickEvents l m).length = 54

/-- R95's end state of one tick (the spec's own inference from R126, R130 and R131), for a tick on the tick input. -/
def Obligations.TickShowsItsLevel : Prop :=
  ∀ (rest : List Agent) (s : State), s.order = .timer :: rest → LinesIdle s.wires.pins →
    ∃ t, step s = .next t ∧
      t.cursor.toNat = (s.cursor.toNat + 1) % 4 ∧
      t.wires.pins = { Pins.idle with row := 0b0001#4 <<< s.cursor.toNat } ∧
      t.wires.chain.sr = (s.readLevel (cursorLevel s.cursor)).reverse ∧
      t.wires.chain.out = (s.readLevel (cursorLevel s.cursor)).reverse ∧
      columns t.wires.chain = s.readLevel (cursorLevel s.cursor) ∧
      (∀ (l : Level) (b : Fin 16), lit t.wires l b = true ↔
        l = cursorLevel s.cursor ∧ (s.readLevel (cursorLevel s.cursor)).getLsbD b = true) ∧
      t.fb = s.fb

/-- R100: the emitted byte sequence of a tick after a SET_LEVEL of the level it draws. -/
def Obligations.TickEmitsLowByteThenHighByte : Prop :=
  ∀ (level : Byte) (mask : Mask) (s : State) (h : level.toNat < 4),
    ∃ s₁, exec (.setLevel level mask) s = .next s₁ ∧
      ∀ (s₂ : State) (rest : List Agent),
        s₂.readLevel ⟨level.toNat, h⟩ = s₁.readLevel ⟨level.toNat, h⟩ → s₂.cursor.toNat = level.toNat →
        s₂.order = .timer :: rest →
        ∃ t es, step s₂ = .next t ∧ t.trace = s₂.trace ++ es ∧
          emittedBytes s₂.wires.pins.data es = [(mask &&& 0x00FF#16).setWidth 8, (mask >>> 8).setWidth 8]

/-- R147 (the spec's own inference): in a tick after a tick, for the 50 pin events before the latch rises, the new row shows the previous
tick's mask; from then on it shows its own, and no other row is lit at either time. -/
def Obligations.GhostWindowShowsThePreviousFrame : Prop :=
  ∀ (s : State), s.port = .S → LinesIdle s.wires.pins →
    ∃ s₁, exec .tick s = .next s₁ ∧
      ∀ s₂ : State, s₂.port = .S → s₂.wires = s₁.wires → s₂.cursor = s₁.cursor →
        ∃ t es, exec .tick s₂ = .next t ∧ t.trace = s₂.trace ++ es ∧
          (∀ k, 2 ≤ k → k ≤ 52 → ∀ (l : Level) (b : Fin 16), lit (wiresAfter s₂.wires (es.take k)) l b = true ↔
            l = cursorLevel (s.cursor + 1#2) ∧ (s.readLevel (cursorLevel s.cursor)).getLsbD b = true) ∧
          (∀ k, 53 ≤ k → ∀ (l : Level) (b : Fin 16), lit (wiresAfter s₂.wires (es.take k)) l b = true ↔
            l = cursorLevel (s.cursor + 1#2) ∧ (s₂.readLevel (cursorLevel (s.cursor + 1#2))).getLsbD b = true)

/-- R97: over any run the cursor moves by exactly the number of ticks, modulo 4; from cursor 0 the `n`-th tick draws level `n mod 4`. -/
def Obligations.TicksAloneMoveTheCursor : Prop :=
  ∀ (k : Nat) (s t : State), RunsTo k s t →
    t.cursor.toNat = (s.cursor.toNat + runTicks k s) % 4 ∧
    (s.cursor = 0#2 → eventTicks (nextEvent t) = true →
      ∃ (u : State) (l : Level), step t = .next u ∧ l.val = runTicks k s % 4 ∧
        u.trace = t.trace ++ tickEvents l (t.readLevel l))

/-- R99: a tick on the tick input and a TICK command on port S have the same effect on every piece of state; the command also returns a
response. (`port` is the model's own field and choice, log 4.) -/
def Obligations.TickInputEqualsTickCommand : Prop :=
  ∀ (s : State) (rest : List Agent) (ws : List Word), s.portS.pending = [] →
    ∃ t u,
      step { s with order := .timer :: rest, portS := { s.portS with incoming := ws } } = .next t ∧
      step { s with order := .port .S :: rest, portS := { s.portS with incoming := 0x90000000#32 :: ws } } = .next u ∧
      u = { withResponse .S 0x00000000#32 t with port := .S }

/-- R45, R97: four ticks in a row draw each level once, from the cursor on, and leave the cursor and the FrameBuffer as they were. -/
def Obligations.FourTicksDrawEveryLevelOnce : Prop :=
  ∀ (s : State) (rest : List Agent), s.order = .timer :: .timer :: .timer :: .timer :: rest →
    ∃ t, RunsTo 4 s t ∧ t.cursor = s.cursor ∧ t.fb = s.fb ∧ t.order = rest ∧
      t.trace = s.trace ++
        ([0#2, 1#2, 2#2, 3#2].map fun j =>
          tickEvents (cursorLevel (s.cursor + j)) (s.readLevel (cursorLevel (s.cursor + j)))).flatten ∧
      ∀ l : Level, ∃ j : BitVec 2, cursorLevel (s.cursor + j) = l ∧ ∀ j', cursorLevel (s.cursor + j') = l → j' = j

/-! ## The machine as a whole -/

/-- R26, R140 (the spec's own choices D9), with R141: nothing is lit after reset, whatever the chain holds. -/
def Obligations.ResetLeavesTheListedValues : Prop :=
  (∀ l : Level, State.reset.readLevel l = 0x0000#16) ∧ State.reset.cursor = 0#2 ∧
  State.reset.wires.pins = { data := false, clk := false, latch := false, clrn := true, row := 0b0000#4 } ∧
  State.reset.portF.pending = [] ∧ State.reset.portS.pending = [] ∧ State.reset.trace = [] ∧
  ∀ (c : Chain) (l : Level) (b : Fin 16), lit { State.reset.wires with chain := c } l b = false

/-- R25, R16, R19: the invariant holds after reset. -/
def Obligations.InvariantHoldsAtReset : Prop := Inv State.reset

/-- R25, R16, R19: every step keeps the invariant: the lines idle, the trace accounting for the lines, at most one row high at every
instant, and PENDING holding what a SET_ALL owes. -/
def Obligations.EveryStepKeepsTheInvariant : Prop :=
  ∀ s t : State, Inv s → step s = .next t → Inv t

/-- D30: the lines and the chain are functions of the trace and of what the chain held at reset; it is so after reset and every step keeps
it. -/
def Obligations.TheTraceExplainsTheWires : Prop :=
  ExplainedByTrace Chain.atReset State.reset ∧
  ∀ (c : Chain) (s t : State), ExplainedByTrace c s → step s = .next t → ExplainedByTrace c t

/-- R121, R123: no event of port F touches a line, the trace, the chain, the cursor or port S. -/
def Obligations.PortFCannotTouchTheWire : Prop :=
  ∀ (s t : State) (rest : List Agent), s.order = .port .F :: rest → step s = .next t →
    t.wires = s.wires ∧ t.trace = s.trace ∧ t.cursor = s.cursor ∧ t.portS = s.portS

/-- R133, R121: port F learns nothing of the rest of the core: what it is answered depends on what it sent alone. -/
def Obligations.PortFLearnsNothing : Prop :=
  ∀ (s₁ s₂ t₁ t₂ : State) (rest₁ rest₂ : List Agent),
    s₁.order = .port .F :: rest₁ → s₂.order = .port .F :: rest₂ → s₁.portF = s₂.portF →
    step s₁ = .next t₁ → step s₂ = .next t₂ → t₁.portF = t₂.portF

/-- R24: whatever a step changes, it has an owner of it as its event. The lines, the trace and the chain are changed by the pin events the step
adds alone, each of which changes its own line and what the chain does on it; and each kind of pin event has its own operations. -/
def Obligations.OnlyOwnersWrite : Prop :=
  ∀ s t : State, step s = .next t →
    (t.fb ≠ s.fb → ∃ x, eventStore (nextEvent s) = some x) ∧
    (t.cursor ≠ s.cursor → eventTicks (nextEvent s) = true) ∧
    (∀ p, (t.portState p).pending ≠ (s.portState p).pending →
      (∃ w m, nextEvent s = .command p w ∧ decode w = .ok (.setAll m)) ∨
      ∃ x rest, nextEvent s = .store p x rest) ∧
    ∃ es, t.trace = s.trace ++ es ∧ t.wires = wiresAfter s.wires es ∧
      (∀ fs e gs, es = fs ++ e :: gs → MovesItsOwn (wiresAfter s.wires fs) e) ∧
      (∀ v, .data v ∈ es → eventTicks (nextEvent s) = true ∨ RunsOnPortS s [.WRITE_BYTE, .WRITE_FRAME]) ∧
      (∀ v, .clk v ∈ es → eventTicks (nextEvent s) = true ∨ RunsOnPortS s [.WRITE_BYTE, .WRITE_FRAME]) ∧
      (∀ v, .latch v ∈ es → eventTicks (nextEvent s) = true ∨ RunsOnPortS s [.LATCH, .CLEAR, .WRITE_FRAME]) ∧
      (∀ v, .clrn v ∈ es → RunsOnPortS s [.CLEAR]) ∧
      (∀ v, .row v ∈ es → eventTicks (nextEvent s) = true ∨ RunsOnPortS s [.SELECT])

/-- R56, R57: a step returns at most one response word, on one port, for a command of that port or the last store of its SET_ALL; bits 23:16
are zero, the status is one of the four, and the data field is zero in all but GET_LEVEL's `OK`. -/
def Obligations.ResponseWordsHaveTheirForm : Prop :=
  ∀ s t : State, step s = .next t →
    ∃ (p : Port) (rs : List Word), (t.portState p).responses = (s.portState p).responses ++ rs ∧ rs.length ≤ 1 ∧
      (∀ q, q ≠ p → (t.portState q).responses = (s.portState q).responses) ∧
      ∀ w ∈ rs, ((∃ v, nextEvent s = .command p v) ∨ ∃ x, nextEvent s = .store p x []) ∧
        w.extractLsb' 16 8 = 0#8 ∧ (w.extractLsb' 24 8).toNat ≤ 3 ∧
        (w.extractLsb' 0 16 ≠ 0#16 → w.extractLsb' 24 8 = 0x00#8 ∧
          ∃ v l, nextEvent s = .command .S v ∧ p = .S ∧ decode v = .ok (.getLevel l))
end

