-- ==== Sys2Proof/Laws/State.lean ====
section
/-! SUPPORT. One lemma for each field of State under each update, true by rfl, so that no later proof unfolds a record update. -/

namespace Sys2Proof.Machine

variable (s : State)

/-! ## `FB[l] <- v` -/

@[simp] theorem writeLevel_fb (l : Level) (v : Mask) : (s.writeLevel l v).fb = s.fb.set l v := rfl

@[simp] theorem writeLevel_cursor (l : Level) (v : Mask) : (s.writeLevel l v).cursor = s.cursor := rfl

@[simp] theorem writeLevel_wires (l : Level) (v : Mask) : (s.writeLevel l v).wires = s.wires := rfl

@[simp] theorem writeLevel_trace (l : Level) (v : Mask) : (s.writeLevel l v).trace = s.trace := rfl

@[simp] theorem writeLevel_portF (l : Level) (v : Mask) : (s.writeLevel l v).portF = s.portF := rfl

@[simp] theorem writeLevel_portS (l : Level) (v : Mask) : (s.writeLevel l v).portS = s.portS := rfl

@[simp] theorem writeLevel_order (l : Level) (v : Mask) : (s.writeLevel l v).order = s.order := rfl

@[simp] theorem writeLevel_port (l : Level) (v : Mask) : (s.writeLevel l v).port = s.port := rfl

/-! ## `drive` -/

@[simp] theorem drive_fb (e : PinEvent) : (drive e s).fb = s.fb := rfl

@[simp] theorem drive_cursor (e : PinEvent) : (drive e s).cursor = s.cursor := rfl

@[simp] theorem drive_wires (e : PinEvent) : (drive e s).wires = s.wires.react e := rfl

@[simp] theorem drive_trace (e : PinEvent) : (drive e s).trace = s.trace ++ [e] := rfl

@[simp] theorem drive_portF (e : PinEvent) : (drive e s).portF = s.portF := rfl

@[simp] theorem drive_portS (e : PinEvent) : (drive e s).portS = s.portS := rfl

@[simp] theorem drive_order (e : PinEvent) : (drive e s).order = s.order := rfl

@[simp] theorem drive_port (e : PinEvent) : (drive e s).port = s.port := rfl

/-! ## The cursor -/

@[simp] theorem advanceCursor_fb : (advanceCursor s).fb = s.fb := rfl

@[simp] theorem advanceCursor_cursor : (advanceCursor s).cursor = nextCursor s.cursor := rfl

@[simp] theorem advanceCursor_wires : (advanceCursor s).wires = s.wires := rfl

@[simp] theorem advanceCursor_trace : (advanceCursor s).trace = s.trace := rfl

@[simp] theorem advanceCursor_portF : (advanceCursor s).portF = s.portF := rfl

@[simp] theorem advanceCursor_portS : (advanceCursor s).portS = s.portS := rfl

@[simp] theorem advanceCursor_order : (advanceCursor s).order = s.order := rfl

@[simp] theorem advanceCursor_port : (advanceCursor s).port = s.port := rfl

/-! ## A turn passes -/

@[simp] theorem passTurn_fb : (passTurn s).fb = s.fb := rfl

@[simp] theorem passTurn_cursor : (passTurn s).cursor = s.cursor := rfl

@[simp] theorem passTurn_wires : (passTurn s).wires = s.wires := rfl

@[simp] theorem passTurn_trace : (passTurn s).trace = s.trace := rfl

@[simp] theorem passTurn_portF : (passTurn s).portF = s.portF := rfl

@[simp] theorem passTurn_portS : (passTurn s).portS = s.portS := rfl

@[simp] theorem passTurn_order : (passTurn s).order = s.order.tail := rfl

@[simp] theorem passTurn_port : (passTurn s).port = s.port := rfl

/-! ## A port is served -/

@[simp] theorem servePort_fb (p : Port) : (servePort p s).fb = s.fb := rfl

@[simp] theorem servePort_cursor (p : Port) : (servePort p s).cursor = s.cursor := rfl

@[simp] theorem servePort_wires (p : Port) : (servePort p s).wires = s.wires := rfl

@[simp] theorem servePort_trace (p : Port) : (servePort p s).trace = s.trace := rfl

@[simp] theorem servePort_portF (p : Port) : (servePort p s).portF = s.portF := rfl

@[simp] theorem servePort_portS (p : Port) : (servePort p s).portS = s.portS := rfl

@[simp] theorem servePort_order (p : Port) : (servePort p s).order = s.order.tail := rfl

@[simp] theorem servePort_port (p : Port) : (servePort p s).port = p := rfl

/-! ## What a port holds -/

@[simp] theorem setPortState_fb (p : Port) (x : PortState) : (s.setPortState p x).fb = s.fb := by cases p <;> rfl

@[simp] theorem setPortState_cursor (p : Port) (x : PortState) : (s.setPortState p x).cursor = s.cursor := by cases p <;> rfl

@[simp] theorem setPortState_wires (p : Port) (x : PortState) : (s.setPortState p x).wires = s.wires := by cases p <;> rfl

@[simp] theorem setPortState_trace (p : Port) (x : PortState) : (s.setPortState p x).trace = s.trace := by cases p <;> rfl

@[simp] theorem setPortState_order (p : Port) (x : PortState) : (s.setPortState p x).order = s.order := by cases p <;> rfl

@[simp] theorem setPortState_port (p : Port) (x : PortState) : (s.setPortState p x).port = s.port := by cases p <;> rfl

@[simp] theorem setPortState_F (x : PortState) : s.setPortState .F x = { s with portF := x } := rfl

@[simp] theorem setPortState_S (x : PortState) : s.setPortState .S x = { s with portS := x } := rfl

@[simp] theorem portState_F : s.portState .F = s.portF := rfl

@[simp] theorem portState_S : s.portState .S = s.portS := rfl

theorem portState_setPortState_same (p : Port) (x : PortState) : (s.setPortState p x).portState p = x := by
  cases p <;> rfl

theorem portState_setPortState_other (p q : Port) (x : PortState) (h : q ≠ p) :
    (s.setPortState p x).portState q = s.portState q := by
  cases p <;> cases q <;> first | rfl | exact absurd rfl h

/-! ## PENDING[p] -/

@[simp] theorem setPending_fb (p : Port) (l : List PendingStore) : (s.setPending p l).fb = s.fb := setPortState_fb s p _

@[simp] theorem setPending_cursor (p : Port) (l : List PendingStore) : (s.setPending p l).cursor = s.cursor := setPortState_cursor s p _

@[simp] theorem setPending_wires (p : Port) (l : List PendingStore) : (s.setPending p l).wires = s.wires := setPortState_wires s p _

@[simp] theorem setPending_trace (p : Port) (l : List PendingStore) : (s.setPending p l).trace = s.trace := setPortState_trace s p _

@[simp] theorem setPending_order (p : Port) (l : List PendingStore) : (s.setPending p l).order = s.order := setPortState_order s p _

@[simp] theorem setPending_port (p : Port) (l : List PendingStore) : (s.setPending p l).port = s.port := setPortState_port s p _

/-! ## A word is taken -/

@[simp] theorem takeWord_fb (p : Port) : (takeWord p s).fb = s.fb := setPortState_fb s p _

@[simp] theorem takeWord_cursor (p : Port) : (takeWord p s).cursor = s.cursor := setPortState_cursor s p _

@[simp] theorem takeWord_wires (p : Port) : (takeWord p s).wires = s.wires := setPortState_wires s p _

@[simp] theorem takeWord_trace (p : Port) : (takeWord p s).trace = s.trace := setPortState_trace s p _

@[simp] theorem takeWord_order (p : Port) : (takeWord p s).order = s.order := setPortState_order s p _

@[simp] theorem takeWord_port (p : Port) : (takeWord p s).port = s.port := setPortState_port s p _

/-! ## A response -/

@[simp] theorem respond_fb (x : Status) (d : Mask) : (respond x d s).fb = s.fb := setPortState_fb s _ _

@[simp] theorem respond_cursor (x : Status) (d : Mask) : (respond x d s).cursor = s.cursor := setPortState_cursor s _ _

@[simp] theorem respond_wires (x : Status) (d : Mask) : (respond x d s).wires = s.wires := setPortState_wires s _ _

@[simp] theorem respond_trace (x : Status) (d : Mask) : (respond x d s).trace = s.trace := setPortState_trace s _ _

@[simp] theorem respond_order (x : Status) (d : Mask) : (respond x d s).order = s.order := setPortState_order s _ _

@[simp] theorem respond_port (x : Status) (d : Mask) : (respond x d s).port = s.port := setPortState_port s _ _

/-! ## An error -/

@[simp] theorem raiseError_fb (x : Status) : (raiseError x s).fb = s.fb := respond_fb s x _

@[simp] theorem raiseError_cursor (x : Status) : (raiseError x s).cursor = s.cursor := respond_cursor s x _

@[simp] theorem raiseError_wires (x : Status) : (raiseError x s).wires = s.wires := respond_wires s x _

@[simp] theorem raiseError_trace (x : Status) : (raiseError x s).trace = s.trace := respond_trace s x _

@[simp] theorem raiseError_order (x : Status) : (raiseError x s).order = s.order := respond_order s x _

@[simp] theorem raiseError_port (x : Status) : (raiseError x s).port = s.port := respond_port s x _

end Sys2Proof.Machine
end

