-- ==== Sys2Proof/Laws/Lines.lean ====
section
/-! SUPPORT. The pin writes of each operation are the events its rule lists, and driving a list of events changes the lines, the chain and the trace alone. -/

namespace Sys2Proof.Machine

variable (s : State)

theorem withEvents_nil : withEvents [] s = s := by
  cases s; simp [withEvents, wiresAfter]

theorem drive_withEvents (e : PinEvent) (es : List PinEvent) :
    drive e (withEvents es s) = withEvents (es ++ [e]) s := by
  simp [drive, withEvents, wiresAfter, List.foldl_append]

theorem withEvents_withEvents (es fs : List PinEvent) :
    withEvents fs (withEvents es s) = withEvents (es ++ fs) s := by
  simp [withEvents, wiresAfter, List.foldl_append]

/-- R18: driving a list of events, all at once. -/
theorem driveAll_eq (es : List PinEvent) : driveAll es s = withEvents es s := by
  induction es generalizing s with
  | nil => exact (withEvents_nil s).symm
  | cons e es ih => exact (ih (drive e s)).trans (by simp [drive, withEvents, wiresAfter])

theorem drive_eq (e : PinEvent) : drive e s = withEvents [e] s := by
  simp [drive, withEvents, wiresAfter]

theorem sendBit_eq (b : Bool) : sendBit s b = withEvents (clockedBit b) s := by
  simp [sendBit, pulseClock, drive_eq, withEvents_withEvents, clockedBit]

theorem byteBits_eq (v : Byte) : byteBits v = [v[0], v[1], v[2], v[3], v[4], v[5], v[6], v[7]] := rfl

/-- R70: WRITE_BYTE drives the 25 events of its rule. -/
theorem sendByte_eq (v : Byte) : sendByte v s = withEvents (byteEvents v) s := by
  simp [sendByte, byteBits_eq, sendBit_eq, drive_eq, withEvents_withEvents, byteEvents]

/-- R71: LATCH drives the 2 events of its rule. -/
theorem pulseLatch_eq : pulseLatch s = withEvents latchEvents s := by
  simp [pulseLatch, drive_eq, withEvents_withEvents, latchEvents]

/-- R72: CLEAR drives the 4 events of its rule. -/
theorem blankChain_eq : blankChain s = withEvents clearEvents s := by
  simp [blankChain, pulseLatch, pulseClear, drive_eq, withEvents_withEvents, clearEvents]

theorem lowByte_getElem (m : Mask) (i : Nat) (h : i < 8) : (lowByte m)[i] = m[i] := by
  simp [lowByte, BitVec.getLsbD_eq_getElem, show i < 16 by omega]

theorem highByte_getElem (m : Mask) (i : Nat) (h : i < 8) : (highByte m)[i] = m[8 + i] := by
  simp [highByte, BitVec.getLsbD_eq_getElem, show 8 + i < 16 by omega]

/-- R60, R73: a frame is its low byte, its high byte and a latch pulse. -/
theorem frameEvents_eq (m : Mask) :
    frameEvents m = byteEvents (lowByte m) ++ (byteEvents (highByte m) ++ latchEvents) := by
  simp [frameEvents, byteEvents, latchEvents, lowByte_getElem, highByte_getElem]

/-- R73: WRITE_FRAME drives the 52 events of its rule. -/
theorem sendFrame_eq (m : Mask) : sendFrame m s = withEvents (frameEvents m) s := by
  simp [sendFrame, sendByte_eq, pulseLatch_eq, withEvents_withEvents, frameEvents_eq]

theorem rowBit_eq (l : Level) : rowBit l = rowOfLevel l := by
  revert l; decide

/-- R80: SELECT drives the 2 events of its rule; what it reads back is the zero it has just written. -/
theorem selectRow_eq (l : Level) : selectRow l s = withEvents (selectEvents l) s := by
  have h : (clearRows s).wires.pins.row ||| rowBit l = rowOfLevel l := by
    rw [rowBit_eq]
    exact BitVec.zero_or
  rw [selectRow, setRow, h, clearRows, drive_eq, drive_eq, withEvents_withEvents]
  rfl

/-- R95: what a tick does, whole. -/
theorem refreshTick_eq :
    refreshTick s =
      { withEvents (tickEvents (cursorLevel s.cursor) (s.readLevel (cursorLevel s.cursor))) s with
        cursor := s.cursor + 1#2 } := by
  simp [refreshTick, selectRow_eq, sendFrame_eq, withEvents_withEvents, tickEvents, advanceCursor, nextCursor]
  rfl

theorem wiresAfter_append (x : Wires) (es fs : List PinEvent) :
    wiresAfter x (es ++ fs) = wiresAfter (wiresAfter x es) fs := by
  simp [wiresAfter, List.foldl_append]

/-- The chain never moves a line (R129). -/
theorem wiresAfter_pins (x : Wires) (es : List PinEvent) : (wiresAfter x es).pins = pinsAfter x.pins es := by
  induction es generalizing x with
  | nil => rfl
  | cons e es ih => exact ih (x.react e)

/-! ## The fields of a state after events -/

variable (es : List PinEvent)

@[simp] theorem withEvents_fb : (withEvents es s).fb = s.fb := rfl

@[simp] theorem withEvents_cursor : (withEvents es s).cursor = s.cursor := rfl

@[simp] theorem withEvents_wires : (withEvents es s).wires = wiresAfter s.wires es := rfl

@[simp] theorem withEvents_trace : (withEvents es s).trace = s.trace ++ es := rfl

@[simp] theorem withEvents_portF : (withEvents es s).portF = s.portF := rfl

@[simp] theorem withEvents_portS : (withEvents es s).portS = s.portS := rfl

@[simp] theorem withEvents_order : (withEvents es s).order = s.order := rfl

@[simp] theorem withEvents_port : (withEvents es s).port = s.port := rfl

end Sys2Proof.Machine
end

