-- ==== Sys2Proof/Laws/Chain.lean ====
section
/-! SUPPORT. What the pin events of each operation do to the lines and the chain, from idle lines. -/

namespace Sys2Proof.Machine

/-- R126: the bits of the shift stage after one place. -/
theorem shiftIn_getLsbD (sr : Mask) (b : Bool) (i : Nat) :
    (shiftIn sr b).getLsbD i = (decide (i < 16) && if i = 0 then b else sr.getLsbD (i - 1)) := by
  unfold shiftIn
  rcases i with _ | i <;> simp [BitVec.getLsbD_shiftLeft]

/-- Eight places along the chain, `v[0]` first. -/
def shiftByte (sr : Mask) (v : Byte) : Mask :=
  [v[0], v[1], v[2], v[3], v[4], v[5], v[6], v[7]].foldl shiftIn sr

/-- `40_shift_register_link.md`, WRITE_BYTE: `((S << 8) & 0xFFFF) | bitrev8(value)`. -/
theorem shiftByte_eq (sr : Mask) (v : Byte) : shiftByte sr v = (sr <<< 8) ||| v.reverse.setWidth 16 := by
  apply BitVec.eq_of_getLsbD_eq
  intro i hi
  simp only [shiftByte, List.foldl, shiftIn_getLsbD]
  interval_cases i <;>
    simp [BitVec.getElem_reverse, BitVec.getMsbD_eq_getLsbD, BitVec.getLsbD_eq_getElem]

/-- Sixteen places leave nothing of the old contents (R73). -/
theorem shiftByte_shiftByte (sr m : Mask) : shiftByte (shiftByte sr (lowByte m)) (highByte m) = m.reverse := by
  apply BitVec.eq_of_getLsbD_eq
  intro i hi
  simp only [shiftByte, List.foldl, shiftIn_getLsbD]
  interval_cases i <;>
    simp [BitVec.getElem_reverse, BitVec.getMsbD_eq_getLsbD, BitVec.getLsbD_eq_getElem, lowByte, highByte]

/-- The events of one byte, from an idle clock and a released clear line. -/
theorem wiresAfter_byteEvents (x : Wires) (v : Byte) (hk : x.pins.clk = false) (hn : x.pins.clrn = true) :
    wiresAfter x (byteEvents v) =
      { pins := { x.pins with data := false }, chain := { x.chain with sr := shiftByte x.chain.sr v } } := by
  obtain ⟨⟨d, k, l, n, r⟩, ⟨sr, out⟩⟩ := x
  simp only at hk hn
  subst hk hn
  rfl

/-- The events of a latch pulse, from an idle latch line. -/
theorem wiresAfter_latchEvents (x : Wires) (hl : x.pins.latch = false) :
    wiresAfter x latchEvents = { x with chain := { x.chain with out := x.chain.sr } } := by
  obtain ⟨⟨d, k, l, n, r⟩, ⟨sr, out⟩⟩ := x
  simp only at hl
  subst hl
  rfl

/-- The events of a frame, from idle lines. -/
theorem wiresAfter_frameEvents (x : Wires) (m : Mask) (h : LinesIdle x.pins) :
    wiresAfter x (frameEvents m) =
      { pins := { x.pins with data := false }, chain := { sr := m.reverse, out := m.reverse } } := by
  obtain ⟨hk, hl, hn⟩ := h
  rw [frameEvents_eq, wiresAfter_append, wiresAfter_append, wiresAfter_byteEvents x _ hk hn,
    wiresAfter_byteEvents _ _ (by exact hk) (by exact hn), wiresAfter_latchEvents _ (by exact hl)]
  simp only [shiftByte_shiftByte]

/-- The row events move the row lines and nothing else. -/
theorem wiresAfter_selectEvents (x : Wires) (l : Level) :
    wiresAfter x (selectEvents l) = { x with pins := { x.pins with row := rowOfLevel l } } := rfl

/-- The events of a tick, from idle lines. -/
theorem wiresAfter_tickEvents (x : Wires) (l : Level) (m : Mask) (h : LinesIdle x.pins) :
    wiresAfter x (tickEvents l m) =
      { pins := { x.pins with data := false, row := rowOfLevel l }, chain := { sr := m.reverse, out := m.reverse } } := by
  rw [tickEvents, wiresAfter_append, wiresAfter_selectEvents, wiresAfter_frameEvents _ _ (by exact h)]

/-- Events that are no latch events leave the output stage alone (R75). -/
theorem wiresAfter_out (es : List PinEvent) (x : Wires) (h : ∀ e ∈ es, ∀ b, e ≠ .latch b) :
    (wiresAfter x es).chain.out = x.chain.out := by
  induction es generalizing x with
  | nil => rfl
  | cons e es ih =>
    refine (ih (x.react e) fun e' he' => h e' (List.mem_cons_of_mem _ he')).trans ?_
    cases e with
    | latch b => exact absurd rfl (h _ (List.mem_cons_self ..) b)
    | data b => rfl
    | row v => rfl
    | clrn b => cases b <;> rfl
    | clk b => simp only [Wires.react, chainReact]; split <;> (try split) <;> rfl

/-- Events that are no row events leave the row lines alone. -/
theorem wiresAfter_row (es : List PinEvent) (x : Wires) (h : ∀ e ∈ es, ∀ v, e ≠ .row v) :
    (wiresAfter x es).pins.row = x.pins.row := by
  induction es generalizing x with
  | nil => rfl
  | cons e es ih =>
    refine (ih (x.react e) fun e' he' => h e' (List.mem_cons_of_mem _ he')).trans ?_
    cases e with
    | row v => exact absurd rfl (h _ (List.mem_cons_self ..) v)
    | data b => rfl
    | clk b => rfl
    | latch b => rfl
    | clrn b => rfl

end Sys2Proof.Machine
end

