-- ==== Sys2Proof/Laws/FrameBuffer.lean ====
section
/-! SUPPORT. The FrameBuffer: a read after a write, and the canonical form of what is stored. -/

namespace Sys2Proof.Machine

variable (s : State)

/-- R90: a read of the cell just written gives what was written. -/
@[simp] theorem readLevel_writeLevel_same (l : Level) (v : Mask) : (s.writeLevel l v).readLevel l = v := by
  simp [State.readLevel]

/-- R85: a write leaves the other cells alone. -/
theorem readLevel_writeLevel_other (l k : Level) (v : Mask) (h : k ≠ l) :
    (s.writeLevel l v).readLevel k = s.readLevel k := by
  simpa [State.readLevel] using Vector.getElem_set_ne l.isLt k.isLt (fun e => h (Fin.ext e.symm))

/-- Every cell after a write. -/
theorem readLevel_writeLevel (l k : Level) (v : Mask) :
    (s.writeLevel l v).readLevel k = if k = l then v else s.readLevel k := by
  split
  · next h => subst h; simp
  · next h => exact readLevel_writeLevel_other s l k v h

/-- A read looks at the FrameBuffer alone. -/
theorem readLevel_congr {s t : State} (h : t.fb = s.fb) (l : Level) : t.readLevel l = s.readLevel l := by
  simp [State.readLevel, h]

/-- Two FrameBuffers that read alike at every level are equal: there is nothing in one that no read shows (R38). -/
theorem fb_ext {a b : Vector Mask 4} (h : ∀ l : Level, a[l] = b[l]) : a = b := by
  apply Vector.ext
  intro i hi
  exact h ⟨i, hi⟩

end Sys2Proof.Machine
end

