-- ==== Sys2Proof/Laws/Meanings.lean ====
section
/-! SUPPORT. What each shared operation of the meanings does, said once: answering, checking the port, checking the level, and the outcome of exec and of step. -/

namespace Sys2Proof.Machine

variable (s : State)

/-- R56: answering puts one word at the end of the port's responses and does nothing else. -/
theorem respond_eq (x : Status) (d : Mask) : respond x d s = withResponse s.port (responseWord x d) s := by
  unfold respond
  cases s.port <;> rfl

/-- R56: the response word of an operation that returned data. -/
theorem responseWord_ok (d : Mask) : responseWord .ok d = 0x0000#16 ++ d :=
  (BitVec.append_assoc (x₁ := 0#8) (x₂ := 0#8) (x₃ := d)).symm

/-- R56: the response word of an operation that returned none. -/
theorem responseWord_ok_zero : responseWord .ok 0x0000#16 = 0x00000000#32 := rfl

/-- R110: an error is an answer with `data = 0` and nothing else. -/
theorem raiseError_eq (x : Status) : raiseError x s = withResponse s.port (statusCode x ++ 0#24) s := by
  rw [raiseError, respond_eq]
  cases x <;> rfl

/-- R113: on port F a system operation is answered `NOT_PERMITTED`. -/
theorem onSystemPort_F (run : State → State) (h : s.port = .F) :
    onSystemPort s run = withResponse .F 0x03000000#32 s := by
  simp only [onSystemPort, h, raiseError_eq]
  rfl

/-- R121: on port S a system operation runs. -/
theorem onSystemPort_S (run : State → State) (h : s.port = .S) : onSystemPort s run = run s := by
  simp [onSystemPort, h]

/-- R53: an operand below 4 names its level. -/
theorem levelOperand_lt {operand : Byte} (h : operand.toNat < 4) :
    levelOperand operand = some ⟨operand.toNat, h⟩ := by
  simp [levelOperand, h]

/-- R53: an operand of 4 or more names no level. -/
theorem levelOperand_ge {operand : Byte} (h : 4 ≤ operand.toNat) : levelOperand operand = none := by
  simp [levelOperand, Nat.not_lt.mpr h]

theorem withLevel_lt {operand : Byte} (run : Level → State → State) (h : operand.toNat < 4) :
    withLevel operand s run = run ⟨operand.toNat, h⟩ s := by
  simp [withLevel, levelOperand_lt h]

/-- R111: a level of 4 or more is answered `BOUNDS`. -/
theorem withLevel_ge {operand : Byte} (run : Level → State → State) (h : 4 ≤ operand.toNat) :
    withLevel operand s run = withResponse s.port 0x01000000#32 s := by
  simp only [withLevel, levelOperand_ge h, raiseError_eq]
  rfl

/-- Every meaning answers a next state (R110, R114). -/
theorem exec_next (i : Instr) : ∃ t, exec i s = .next t := by
  cases i <;> exact ⟨_, rfl⟩

/-! ## The fields of a state with a response -/

variable (p : Port) (w : Word)

@[simp] theorem withResponse_fb : (withResponse p w s).fb = s.fb := by cases p <;> rfl

@[simp] theorem withResponse_cursor : (withResponse p w s).cursor = s.cursor := by cases p <;> rfl

@[simp] theorem withResponse_wires : (withResponse p w s).wires = s.wires := by cases p <;> rfl

@[simp] theorem withResponse_trace : (withResponse p w s).trace = s.trace := by cases p <;> rfl

@[simp] theorem withResponse_order : (withResponse p w s).order = s.order := by cases p <;> rfl

@[simp] theorem withResponse_port : (withResponse p w s).port = s.port := by cases p <;> rfl

/-- A response leaves PENDING alone. -/
theorem withResponse_pending (q : Port) :
    ((withResponse p w s).portState q).pending = (s.portState q).pending := by
  cases p <;> cases q <;> rfl

/-- A response leaves the words waiting alone. -/
theorem withResponse_incoming (q : Port) :
    ((withResponse p w s).portState q).incoming = (s.portState q).incoming := by
  cases p <;> cases q <;> rfl

/-- R56: a response is one word more for its port and nothing for the other. -/
theorem withResponse_responses (q : Port) :
    ((withResponse p w s).portState q).responses = (s.portState q).responses ++ if q = p then [w] else [] := by
  cases p <;> cases q <;> simp [withResponse, State.portState]

/-- A response changes no cell. -/
@[simp] theorem withResponse_readLevel (l : Level) : (withResponse p w s).readLevel l = s.readLevel l := by cases p <;> rfl

/-! ## The state in which a word has been taken -/

@[simp] theorem takeWord_servePort_port : (takeWord p (servePort p s)).port = p := by cases p <;> rfl

@[simp] theorem takeWord_servePort_fb : (takeWord p (servePort p s)).fb = s.fb := by cases p <;> rfl

@[simp] theorem takeWord_servePort_cursor : (takeWord p (servePort p s)).cursor = s.cursor := by cases p <;> rfl

@[simp] theorem takeWord_servePort_wires : (takeWord p (servePort p s)).wires = s.wires := by cases p <;> rfl

@[simp] theorem takeWord_servePort_trace : (takeWord p (servePort p s)).trace = s.trace := by cases p <;> rfl

/-- Taking a word leaves PENDING alone. -/
theorem takeWord_servePort_pending (q : Port) :
    ((takeWord p (servePort p s)).portState q).pending = (s.portState q).pending := by
  cases p <;> cases q <;> rfl

/-- Taking a word returns no response. -/
theorem takeWord_servePort_responses (q : Port) :
    ((takeWord p (servePort p s)).portState q).responses = (s.portState q).responses := by
  cases p <;> cases q <;> rfl

/-! ## What a step runs -/

theorem step_eq (e : Event) (h : nextEvent s = e) : step s = runEvent e s := by
  rw [step, h]

theorem nextEvent_timer (rest : List Agent) (h : s.order = .timer :: rest) : nextEvent s = .tick := by
  simp [nextEvent, h]

theorem nextEvent_port (rest : List Agent) (h : s.order = .port p :: rest) : nextEvent s = portEvent p s := by
  simp [nextEvent, h]

theorem portEvent_command (ws : List Word) (hp : (s.portState p).pending = [])
    (hw : (s.portState p).incoming = w :: ws) : portEvent p s = .command p w := by
  simp [portEvent, hp, hw]

theorem portEvent_store (x : PendingStore) (rest : List PendingStore) (hp : (s.portState p).pending = x :: rest) :
    portEvent p s = .store p x rest := by
  simp [portEvent, hp]

theorem portEvent_idle (hp : (s.portState p).pending = []) (hw : (s.portState p).incoming = []) :
    portEvent p s = .idle := by
  simp [portEvent, hp, hw]

end Sys2Proof.Machine
end

