-- ==== Sys2Proof/Laws/PerInstr.lean ====
section
/-! SUPPORT. For each operation: the word the encoder writes selects the row of the operation's mnemonic (R52, R55). -/

namespace Sys2Proof.Laws.EncodesItsRow

/-- A packed word under a mask, field by field. -/
theorem packWord_and (op op' z' : BitVec 4) (level level' : Byte) (imm imm' : Mask) :
    packWord op level imm &&& (op' ++ (z' ++ (level' ++ imm'))) =
      (op &&& op') ++ ((0#4 &&& z') ++ ((level &&& level') ++ (imm &&& imm'))) := by
  exact BitVec.and_append.trans (congrArg _ (BitVec.and_append.trans (congrArg _ BitVec.and_append)))

/-- The low half of WRITE_BYTE's word under its mask. -/
theorem byte_and (value : Byte) : (0x00#8 ++ value) &&& 0xFF00#16 = 0x0000#16 := by
  exact (BitVec.and_append (x₁ := 0x00#8) (x₂ := 0xFF#8) (y₁ := value) (y₂ := 0x00#8)).trans (by simp)

/-- The row of an operation in the opcode table. -/
def row (i : Instr) : Option OpcodeRow := opcodeRows.find? fun r => r.mnemonic = i.mnemonic

/-- The encoded word has the fixed bits of its row. -/
def Statement (i : Instr) : Prop := ∃ r, row i = some r ∧ r.selects (encode i) = true

theorem writeByte (value : Byte) : Statement (.writeByte value) := by
  refine ⟨⟨.WRITE_BYTE, 0x10000000#32, 0xFFFFFF00#32⟩, rfl, ?_⟩
  rw [OpcodeRow.selects, beq_iff_eq]
  exact (packWord_and 0x1#4 0xF#4 0xF#4 0x00#8 0xFF#8 (0x00#8 ++ value) 0xFF00#16).trans (by simp [byte_and])

theorem latch : Statement .latch := ⟨_, rfl, rfl⟩

theorem clear : Statement .clear := ⟨_, rfl, rfl⟩

theorem writeFrame (mask : Mask) : Statement (.writeFrame mask) := by
  refine ⟨⟨.WRITE_FRAME, 0x40000000#32, 0xFFFF0000#32⟩, rfl, ?_⟩
  rw [OpcodeRow.selects, beq_iff_eq]
  exact (packWord_and 0x4#4 0xF#4 0xF#4 0x00#8 0xFF#8 mask 0x0000#16).trans (by simp)

theorem select (level : Byte) : Statement (.select level) := by
  refine ⟨⟨.SELECT, 0x50000000#32, 0xFF00FFFF#32⟩, rfl, ?_⟩
  rw [OpcodeRow.selects, beq_iff_eq]
  exact (packWord_and 0x5#4 0xF#4 0xF#4 level 0x00#8 0x0000#16 0xFFFF#16).trans (by simp)

theorem setLevel (level : Byte) (mask : Mask) : Statement (.setLevel level mask) := by
  refine ⟨⟨.SET_LEVEL, 0x60000000#32, 0xFF000000#32⟩, rfl, ?_⟩
  rw [OpcodeRow.selects, beq_iff_eq]
  exact (packWord_and 0x6#4 0xF#4 0xF#4 level 0x00#8 mask 0x0000#16).trans (by simp)

theorem setAll (mask : Mask) : Statement (.setAll mask) := by
  refine ⟨⟨.SET_ALL, 0x70000000#32, 0xFFFF0000#32⟩, rfl, ?_⟩
  rw [OpcodeRow.selects, beq_iff_eq]
  exact (packWord_and 0x7#4 0xF#4 0xF#4 0x00#8 0xFF#8 mask 0x0000#16).trans (by simp)

theorem getLevel (level : Byte) : Statement (.getLevel level) := by
  refine ⟨⟨.GET_LEVEL, 0x80000000#32, 0xFF00FFFF#32⟩, rfl, ?_⟩
  rw [OpcodeRow.selects, beq_iff_eq]
  exact (packWord_and 0x8#4 0xF#4 0xF#4 level 0x00#8 0x0000#16 0xFFFF#16).trans (by simp)

theorem tick : Statement .tick := ⟨_, rfl, rfl⟩

end Sys2Proof.Laws.EncodesItsRow
end

