-- ==== Sys2Proof/Laws/Step.lean ====
section
/-! SUPPORT. Said once: everything an operation can do, everything an event can do, and how a run is taken apart. -/

namespace Sys2Proof.Machine

/-- The ways an operation can end (R58 steps 2 to 4): two errors, or the effect of its rule. -/
inductive ExecEffect (i : Instr) (s : State) : State → Prop
  | notPermitted : s.port = .F → i.mnemonic ≠ .SET_LEVEL → i.mnemonic ≠ .SET_ALL →
      ExecEffect i s (withResponse .F 0x03000000#32 s)
  | bounds (l : Byte) : ((∃ m, i = .setLevel l m) ∨ (s.port = .S ∧ (i = .select l ∨ i = .getLevel l))) → 4 ≤ l.toNat →
      ExecEffect i s (withResponse s.port 0x01000000#32 s)
  | lines (es : List PinEvent) : s.port = .S →
      ((∃ v, i = .writeByte v ∧ es = byteEvents v) ∨ (i = .latch ∧ es = latchEvents) ∨ (i = .clear ∧ es = clearEvents) ∨
        (∃ m, i = .writeFrame m ∧ es = frameEvents m) ∨
        ∃ (l : Byte) (h : l.toNat < 4), i = .select l ∧ es = selectEvents ⟨l.toNat, h⟩) →
      ExecEffect i s (withResponse .S 0x00000000#32 (withEvents es s))
  | setLevel (l : Byte) (m : Mask) (h : l.toNat < 4) : i = .setLevel l m →
      ExecEffect i s (withResponse s.port 0x00000000#32 (s.writeLevel ⟨l.toNat, h⟩ m))
  | setAll (m : Mask) : i = .setAll m → ExecEffect i s ((s.writeLevel 0 m).setPending s.port (setAllRemainder m))
  | getLevel (l : Byte) (h : l.toNat < 4) : i = .getLevel l → s.port = .S →
      ExecEffect i s (withResponse .S (0x0000#16 ++ s.readLevel ⟨l.toNat, h⟩) s)
  | tick : i = .tick → s.port = .S → ExecEffect i s (withResponse .S 0x00000000#32 (refreshTick s))

/-- Every operation ends in one of these ways. -/
theorem exec_effect (i : Instr) (s : State) : ∃ t, exec i s = .next t ∧ ExecEffect i s t := by
  have perm (hp : s.port = .F) (h₁ : i.mnemonic ≠ .SET_LEVEL) (h₂ : i.mnemonic ≠ .SET_ALL) := ExecEffect.notPermitted hp h₁ h₂
  cases i with
  | writeByte v =>
    refine ⟨_, rfl, ?_⟩
    cases hp : s.port with
    | F => rw [onSystemPort_F _ _ hp]; exact perm hp nofun nofun
    | S =>
      rw [onSystemPort_S _ _ hp, sendByte_eq, respond_eq, withEvents_port, hp]
      exact .lines _ hp (.inl ⟨v, rfl, rfl⟩)
  | latch =>
    refine ⟨_, rfl, ?_⟩
    cases hp : s.port with
    | F => rw [onSystemPort_F _ _ hp]; exact perm hp nofun nofun
    | S =>
      rw [onSystemPort_S _ _ hp, pulseLatch_eq, respond_eq, withEvents_port, hp]
      exact .lines _ hp (.inr (.inl ⟨rfl, rfl⟩))
  | clear =>
    refine ⟨_, rfl, ?_⟩
    cases hp : s.port with
    | F => rw [onSystemPort_F _ _ hp]; exact perm hp nofun nofun
    | S =>
      rw [onSystemPort_S _ _ hp, blankChain_eq, respond_eq, withEvents_port, hp]
      exact .lines _ hp (.inr (.inr (.inl ⟨rfl, rfl⟩)))
  | writeFrame m =>
    refine ⟨_, rfl, ?_⟩
    cases hp : s.port with
    | F => rw [onSystemPort_F _ _ hp]; exact perm hp nofun nofun
    | S =>
      rw [onSystemPort_S _ _ hp, sendFrame_eq, respond_eq, withEvents_port, hp]
      exact .lines _ hp (.inr (.inr (.inr (.inl ⟨m, rfl, rfl⟩))))
  | select l =>
    refine ⟨_, rfl, ?_⟩
    cases hp : s.port with
    | F => rw [onSystemPort_F _ _ hp]; exact perm hp nofun nofun
    | S =>
      rw [onSystemPort_S _ _ hp]
      rcases Nat.lt_or_ge l.toNat 4 with h | h
      · rw [withLevel_lt _ _ h, selectRow_eq, respond_eq, withEvents_port, hp]
        exact .lines _ hp (.inr (.inr (.inr (.inr ⟨l, h, rfl, rfl⟩))))
      · rw [withLevel_ge _ _ h]
        exact .bounds l (.inr ⟨hp, .inl rfl⟩) h
  | setLevel l m =>
    refine ⟨_, rfl, ?_⟩
    rcases Nat.lt_or_ge l.toNat 4 with h | h
    · rw [withLevel_lt _ _ h, respond_eq]
      exact .setLevel l m h rfl
    · rw [withLevel_ge _ _ h]
      exact .bounds l (.inl ⟨m, rfl⟩) h
  | setAll m => exact ⟨_, rfl, .setAll m rfl⟩
  | getLevel l =>
    refine ⟨_, rfl, ?_⟩
    cases hp : s.port with
    | F => rw [onSystemPort_F _ _ hp]; exact perm hp nofun nofun
    | S =>
      rw [onSystemPort_S _ _ hp]
      rcases Nat.lt_or_ge l.toNat 4 with h | h
      · rw [withLevel_lt _ _ h, respond_eq, responseWord_ok, hp]
        exact .getLevel l h rfl hp
      · rw [withLevel_ge _ _ h]
        exact .bounds l (.inr ⟨hp, .inr rfl⟩) h
  | tick =>
    refine ⟨_, rfl, ?_⟩
    cases hp : s.port with
    | F => rw [onSystemPort_F _ _ hp]; exact perm hp nofun nofun
    | S =>
      rw [onSystemPort_S _ _ hp, respond_eq, show (refreshTick s).port = .S by rw [refreshTick_eq]; exact hp]
      exact .tick rfl hp

/-- What is known of an operation that ended in the state `t`. -/
theorem exec_cases {i : Instr} {s t : State} (h : exec i s = .next t) : ExecEffect i s t := by
  obtain ⟨u, hu, e⟩ := exec_effect i s
  cases hu.symm.trans h
  exact e

/-- What it takes for the next event to be a port's. -/
theorem nextEvent_inv {s : State} {e : Event} (h : nextEvent s = e) :
    (∀ p w, e = .command p w → (∃ rest, s.order = .port p :: rest) ∧ (s.portState p).pending = [] ∧
      ∃ ws, (s.portState p).incoming = w :: ws) ∧
    (∀ p x more, e = .store p x more → (∃ rest, s.order = .port p :: rest) ∧ (s.portState p).pending = x :: more) ∧
    (e = .tick → ∃ rest, s.order = .timer :: rest) := by
  subst h
  unfold nextEvent
  split
  · exact ⟨nofun, nofun, nofun⟩
  · next rest ho => exact ⟨nofun, nofun, fun _ => ⟨rest, ho⟩⟩
  · next q rest ho =>
    unfold portEvent
    split
    · next x more hp =>
      refine ⟨nofun, ?_, nofun⟩
      rintro p x' more' ⟨⟩
      exact ⟨⟨rest, ho⟩, hp⟩
    · next hp =>
      split
      · next w ws hw =>
        refine ⟨?_, nofun, nofun⟩
        rintro p w' ⟨⟩
        exact ⟨⟨rest, ho⟩, hp, ws, hw⟩
      · exact ⟨nofun, nofun, nofun⟩

/-- The ways a step can end: an idle turn, a tick, an operation, an illegal word, the next store of a SET_ALL. -/
inductive StepEffect (s : State) : State → Prop
  | idle : nextEvent s = .idle → StepEffect s (passTurn s)
  | tick : nextEvent s = .tick → StepEffect s (refreshTick (passTurn s))
  | command (p : Port) (w : Word) (i : Instr) (t : State) : nextEvent s = .command p w → decode w = .ok i →
      ExecEffect i (takeWord p (servePort p s)) t → StepEffect s t
  | illegal (p : Port) (w : Word) (e : DecodeError) : nextEvent s = .command p w → decode w = .error e →
      StepEffect s (withResponse p 0x02000000#32 (takeWord p (servePort p s)))
  | store (p : Port) (x : PendingStore) (rest : List PendingStore) : nextEvent s = .store p x rest →
      StepEffect s (makePendingStore x rest (servePort p s))

/-- What is known of a step that ended in the state `t`. -/
theorem step_cases {s t : State} (h : step s = .next t) : StepEffect s t := by
  cases he : nextEvent s with
  | idle => rw [step_eq s _ he] at h; cases h; exact .idle he
  | tick => rw [step_eq s _ he] at h; cases h; exact .tick he
  | store p x rest => rw [step_eq s _ he] at h; cases h; exact .store p x rest he
  | command p w =>
    rw [step_eq s _ he, runEvent, runWord] at h
    cases hd : decode w with
    | ok i => rw [hd] at h; exact .command p w i t he hd (exec_cases h)
    | error e =>
      rw [hd, raiseError_eq] at h
      cases h
      cases p <;> exact .illegal _ w e he hd

/-! ## Runs -/

/-- A run of no steps. -/
theorem runsTo_zero (s t : State) : RunsTo 0 s t ↔ t = s := by
  constructor
  · intro h
    cases (show Host.Outcome.next s = Host.Outcome.next t from h)
    rfl
  · intro h
    rw [h]
    rfl

/-- A run is its first step and the rest. -/
theorem runsTo_succ (k : Nat) (s t : State) : RunsTo (k + 1) s t ↔ ∃ u, step s = .next u ∧ RunsTo k u t := by
  unfold RunsTo
  unfold Sys2Proof.core
  simp only [Host.Core.run]
  cases step s <;> simp

end Sys2Proof.Machine
end

