-- ==== Sys2Proof/Tests/Slice0.lean ====
section
/-! SUPPORT. The model's own tests: what is refused as ill formed, the words of the spec's tables, one step of each operation, and for each
statement with hypotheses a state and operands that meet them. Expected values are those of `30_encoding.md` section 7 and
`95_test_vectors.md`, or hand work from the rules. -/

namespace Sys2Proof.Tests

open Sys2Proof.Machine

/-! ## Small states -/

/-- Reset values, cursor and chain chosen, so that nothing rests on the free values. -/
def at' (cursor : BitVec 2) (sr out : Mask) : State :=
  { State.reset with cursor := cursor, wires := { pins := Pins.idle, chain := { sr := sr, out := out } } }

/-- The chain of `95_test_vectors.md` section 2.3. -/
def base : State := at' 0#2 0x1234#16 0xF77D#16

/-- The FrameBuffer of program P1. -/
def image (s : State) : State := { s with fb := #v[0x000F#16, 0x00F0#16, 0x0F00#16, 0xF000#16] }

/-- The same state with port F being served. -/
def onF (s : State) : State := { s with port := .F }

/-- What a result shows through `f`. -/
def see {α : Type} (f : State → α) (r : Result) : Option α :=
  match r with
  | .next s => some (f s)
  | _ => none

/-- The answer of one command word on a port, from `base`. -/
def answer (p : Port) (w : Word) : Option (List Word) :=
  see (fun s => (s.portState p).responses) (step (presentWord p w base))

/-! ## WellFormed refuses (R63) -/

theorem test_wf_writeByte_value : Listing.wellFormed ⟨.WRITE_BYTE, [256]⟩ = false := by decide

theorem test_wf_writeByte_arity : Listing.wellFormed ⟨.WRITE_BYTE, []⟩ = false := by decide

theorem test_wf_latch_arity : Listing.wellFormed ⟨.LATCH, [0]⟩ = false := by decide

theorem test_wf_clear_arity : Listing.wellFormed ⟨.CLEAR, [0]⟩ = false := by decide

theorem test_wf_writeFrame_mask : Listing.wellFormed ⟨.WRITE_FRAME, [65536]⟩ = false := by decide

theorem test_wf_writeFrame_arity : Listing.wellFormed ⟨.WRITE_FRAME, [1, 2]⟩ = false := by decide

theorem test_wf_select_level : Listing.wellFormed ⟨.SELECT, [256]⟩ = false := by decide

theorem test_wf_select_arity : Listing.wellFormed ⟨.SELECT, []⟩ = false := by decide

theorem test_wf_setLevel_level : Listing.wellFormed ⟨.SET_LEVEL, [256, 0]⟩ = false := by decide

theorem test_wf_setLevel_mask : Listing.wellFormed ⟨.SET_LEVEL, [0, 65536]⟩ = false := by decide

theorem test_wf_setLevel_arity : Listing.wellFormed ⟨.SET_LEVEL, [0]⟩ = false := by decide

theorem test_wf_setAll_mask : Listing.wellFormed ⟨.SET_ALL, [65536]⟩ = false := by decide

theorem test_wf_setAll_arity : Listing.wellFormed ⟨.SET_ALL, [0, 0]⟩ = false := by decide

theorem test_wf_getLevel_level : Listing.wellFormed ⟨.GET_LEVEL, [256]⟩ = false := by decide

theorem test_wf_getLevel_arity : Listing.wellFormed ⟨.GET_LEVEL, []⟩ = false := by decide

theorem test_wf_tick_arity : Listing.wellFormed ⟨.TICK, [0]⟩ = false := by decide

theorem test_wf_timer_line : ListingLine.wellFormed ⟨.timer, ⟨.LATCH, []⟩⟩ = false := by decide

/-- A level of 4 to 255 is well formed: it is carried and then answered `BOUNDS`. -/
theorem test_wf_accepts : Listing.wellFormed ⟨.SET_LEVEL, [255, 65535]⟩ = true ∧
    ListingLine.wellFormed ⟨.timer, ⟨.TICK, []⟩⟩ = true := by decide

/-! ## Words written out field by field from R51 and R52: op, z, level, imm -/

theorem test_decode_writeByte : decode 0b0001_0000_00000000_00000000_11101111#32 = .ok (.writeByte 0xEF#8) := by rfl

theorem test_decode_latch : decode 0b0010_0000_00000000_0000000000000000#32 = .ok .latch := by rfl

theorem test_decode_clear : decode 0b0011_0000_00000000_0000000000000000#32 = .ok .clear := by rfl

theorem test_decode_writeFrame : decode 0b0100_0000_00000000_1011111011101111#32 = .ok (.writeFrame 0xBEEF#16) := by rfl

theorem test_decode_select : decode 0b0101_0000_00000010_0000000000000000#32 = .ok (.select 2#8) := by rfl

theorem test_decode_setLevel : decode 0b0110_0000_00000010_1011111011101111#32 = .ok (.setLevel 2#8 0xBEEF#16) := by rfl

theorem test_decode_setAll : decode 0b0111_0000_00000000_1010010111000011#32 = .ok (.setAll 0xA5C3#16) := by rfl

theorem test_decode_getLevel : decode 0b1000_0000_11111111_0000000000000000#32 = .ok (.getLevel 255#8) := by rfl

theorem test_decode_tick : decode 0b1001_0000_00000000_0000000000000000#32 = .ok .tick := by rfl

/-- `95_test_vectors.md` section 2.1: a 1 in each kind of must-be-zero field. -/
theorem test_decode_mustBeZero :
    [0x100001EF#32, 0x10010000#32, 0x20000001#32, 0x50020001#32, 0x51020000#32, 0x7001FFFF#32, 0x80020001#32].map decode =
      List.replicate 7 (.error .mustBeZero) := by rfl

theorem test_decode_reserved :
    [0x00000000#32, 0xA0000000#32, 0xFFFFFFFF#32].map decode = List.replicate 3 (.error .reservedOp) := by rfl

theorem test_decodeTableWord : decodeTableWord 32 0x6002BEEF = some (.setLevel 2#8 0xBEEF#16) ∧
    decodeTableWord 32 0xA0000000 = none := by exact ⟨rfl, rfl⟩

theorem test_encode :
    [Instr.writeByte 0xEF#8, .latch, .clear, .writeFrame 0xBEEF#16, .select 2#8, .setLevel 2#8 0xBEEF#16, .setAll 0xFFFF#16,
      .getLevel 2#8, .tick].map encode =
    [0x100000EF#32, 0x20000000#32, 0x30000000#32, 0x4000BEEF#32, 0x50020000#32, 0x6002BEEF#32, 0x7000FFFF#32, 0x80020000#32,
      0x90000000#32] := by rfl

/-! ## Answers (`95_test_vectors.md` sections 2.1 and 2.6) -/

theorem test_answer_illegal : answer .S 0x50020001#32 = some [0x02000000#32] := by decide

/-- Illegal is tested before permission. -/
theorem test_answer_illegal_F : answer .F 0x50050001#32 = some [0x02000000#32] := by decide

/-- Permission is tested before bounds. -/
theorem test_answer_notPermitted : answer .F 0x50050000#32 = some [0x03000000#32] := by decide

theorem test_answer_bounds : answer .S 0x80040000#32 = some [0x01000000#32] ∧ answer .F 0x60040000#32 = some [0x01000000#32] := by
  decide

/-! ## One step of each operation -/

/-- Section 2.2: the register after `WRITE_BYTE 0xA5`. -/
theorem test_writeByte_sr : see (·.wires.chain) (exec (.writeByte 0xA5#8) base) = some ⟨0x34A5#16, 0xF77D#16⟩ := by decide

/-- Section 2.2: the full trace of `WRITE_BYTE 0xEF`. -/
theorem test_writeByte_trace : see (·.trace) (exec (.writeByte 0xEF#8) base) = some
    [.data true, .clk true, .clk false, .data true, .clk true, .clk false, .data true, .clk true, .clk false,
      .data true, .clk true, .clk false, .data false, .clk true, .clk false, .data true, .clk true, .clk false,
      .data true, .clk true, .clk false, .data true, .clk true, .clk false, .data false] := by decide

/-- Section 2.3. -/
theorem test_latch : see (·.wires.chain) (exec .latch base) = some ⟨0x1234#16, 0x1234#16⟩ := by decide

/-- Section 2.3. -/
theorem test_clear : see (fun s => (s.wires.chain, s.trace)) (exec .clear base) =
    some (⟨0x0000#16, 0x0000#16⟩, [.clrn false, .clrn true, .latch true, .latch false]) := by decide

/-- Section 2.4. -/
theorem test_writeFrame : see (fun s => (s.wires.chain, columns s.wires.chain)) (exec (.writeFrame 0xBEEF#16) base) =
    some (⟨0xF77D#16, 0xF77D#16⟩, 0xBEEF#16) := by decide

/-- Section 2.4: the emitted bytes of `0x1234`. -/
theorem test_writeFrame_bytes :
    see (fun s => emittedBytes false s.trace) (exec (.writeFrame 0x1234#16) base) = some [0x34#8, 0x12#8] := by decide

/-- Section 2.6. -/
theorem test_select : see (fun s => (s.wires.pins.row, s.trace)) (exec (.select 3#8) base) =
    some (0b1000#4, [.row 0b0000#4, .row 0b1000#4]) := by decide

/-- Section 2.6: no wrap. -/
theorem test_select_bounds : see (fun s => (s.wires.pins.row, s.trace, s.portS.responses)) (exec (.select 5#8) base) =
    some (0b0000#4, [], [0x01000000#32]) := by decide

/-- Section 2.7. -/
theorem test_setLevel : see (·.fb) (exec (.setLevel 2#8 0x0001#16) (onF (image base))) =
    some #v[0x000F#16, 0x00F0#16, 0x0001#16, 0xF000#16] := by decide

/-- Section 2.7: in particular level 0 is unchanged. -/
theorem test_setLevel_bounds : see (fun s => (s.fb, s.portF.responses)) (exec (.setLevel 4#8 0xFFFF#16) (onF (image base))) =
    some (#v[0x000F#16, 0x00F0#16, 0x0F00#16, 0xF000#16], [0x01000000#32]) := by decide

/-- R88: the event that decodes it. -/
theorem test_setAll : see (fun s => (s.fb, s.portF.pending, s.portF.responses)) (exec (.setAll 0x2222#16) (onF (image base))) =
    some (#v[0x2222#16, 0x00F0#16, 0x0F00#16, 0xF000#16],
      [⟨1, 0x2222#16⟩, ⟨2, 0x2222#16⟩, ⟨3, 0x2222#16⟩], []) := by decide

/-- R88: the last store answers. -/
theorem test_setAll_last :
    see (fun s => (s.fb, s.portF.pending, s.portF.responses))
      (step { base with order := [.port .F], portF := { base.portF with pending := [⟨3, 0x2222#16⟩] } }) =
    some (#v[0#16, 0#16, 0#16, 0x2222#16], [], [0x00000000#32]) := by decide

/-- Section 2.7. -/
theorem test_getLevel : see (·.portS.responses) (exec (.getLevel 3#8) (image base)) = some [0x0000F000#32] := by decide

/-- Section 2.1. -/
theorem test_getLevel_F : see (·.portF.responses) (exec (.getLevel 2#8) (onF base)) = some [0x03000000#32] := by decide

/-- Section 2.8: what a tick of `0xA5C3` leaves. -/
theorem test_tick : see (fun s => (s.cursor, s.wires.pins.row, s.wires.chain, s.fb, s.portS.responses))
    (exec .tick { base with fb := base.fb.set 0 0xA5C3#16 }) =
    some (1#2, 0b0001#4, ⟨0xC3A5#16, 0xC3A5#16⟩, #v[0xA5C3#16, 0#16, 0#16, 0#16], [0x00000000#32]) := by decide

/-- Section 2.8: the cursor wraps, and the row of level 3. -/
theorem test_tick_wrap : see (fun s => (s.cursor, s.wires.pins.row, emittedBytes false s.trace))
    (step { image base with cursor := 3#2, order := [.timer] }) = some (0#2, 0b1000#4, [0x00#8, 0xF0#8]) := by decide

/-! ## How words come to the machine -/

theorem test_withFetchWord : see (·.portS.responses) (step (State.reset.withFetchWord 32 0x80020000)) = some [0x00000000#32] := by
  decide

/-- A SET_ALL line gives its port four turns (log 21); a line that is not well formed presents nothing. -/
theorem test_presentLine :
    (presentLine ⟨.port .F, ⟨.SET_ALL, [8738]⟩⟩ base).order = [.port .F, .port .F, .port .F, .port .F] ∧
    (presentLine ⟨.port .F, ⟨.SET_ALL, [8738]⟩⟩ base).portF.incoming = [0x70002222#32] ∧
    (presentLine ⟨.timer, ⟨.TICK, []⟩⟩ base).order = [.timer] ∧
    presentLine ⟨.timer, ⟨.LATCH, []⟩⟩ base = base := by exact ⟨rfl, rfl, rfl, rfl⟩

/-! ## Witnesses: for each statement with hypotheses, a state and operands that meet them, at the edges of its clauses -/

/-- `base` with one word presented on a port, and the port's turn next. -/
def given (p : Port) (w : Word) : State := presentWord p w base

theorem given_presented (p : Port) (w : Word) : Presented p w [] [] (given p w) := by cases p <;> exact ⟨rfl, rfl, rfl⟩

theorem base_idle : base.port = .S ∧ LinesIdle base.wires.pins := ⟨rfl, rfl, rfl, rfl⟩

theorem test_witness_EveryDecodedWordIsAnEncoding : decode 0x60FFFFFF#32 = .ok (.setLevel 255#8 0xFFFF#16) := by rfl

theorem test_witness_NoWordSelectsTwoRows : ∃ r ∈ opcodeRows, r.selects 0x7000FFFF#32 = true := by decide

theorem test_witness_ListingsNameOperations :
    Listing.wellFormed ⟨.SELECT, [255]⟩ = true ∧ Listing.wellFormed ⟨.SELECT, [256]⟩ = false := by decide

theorem test_witness_StepRunsTheDecodedCommand :
    Presented .F 0x6003FFFF#32 [] [] (given .F 0x6003FFFF#32) ∧ decode 0x6003FFFF#32 = .ok (.setLevel 3#8 0xFFFF#16) :=
  ⟨given_presented _ _, rfl⟩

theorem test_witness_IllegalWordsAreAnsweredIllegal :
    Presented .S 0x0FFFFFFF#32 [] [] (given .S 0x0FFFFFFF#32) ∧ OpReserved 0x0FFFFFFF#32 ∧ OpReserved 0xA0000000#32 ∧
    MustBeZeroBroken 0x100001EF#32 ∧ ¬ (OpReserved 0x90000000#32 ∨ MustBeZeroBroken 0x90000000#32) :=
  ⟨given_presented _ _, by unfold OpReserved; decide, by unfold OpReserved; decide, by unfold MustBeZeroBroken; decide,
    by unfold OpReserved MustBeZeroBroken; decide⟩

theorem test_witness_StepTakesTheTick : (deliverTick base).order = .timer :: [] := rfl

theorem test_witness_StepMakesTheOwedStore :
    ∃ s : State, s.order = .port .F :: [] ∧ (s.portState .F).pending = ⟨3, 0xFFFF#16⟩ :: [] :=
  ⟨{ base with order := [.port .F], portF := { base.portF with pending := [⟨3, 0xFFFF#16⟩] } }, rfl, rfl⟩

theorem test_witness_IdleTurnsChangeNothing :
    base.order = [] ∧ (giveTurn .F base).order = .port .F :: [] ∧ ((giveTurn .F base).portState .F).pending = [] ∧
    ((giveTurn .F base).portState .F).incoming = [] := ⟨rfl, rfl, rfl, rfl⟩

theorem test_witness_PlacedInstructionRunsNext : decodeTableWord 32 0x90000000 = some .tick := by rfl

theorem test_witness_PortFMayOnlyStore :
    (onF base).port = .F ∧ Instr.tick.mnemonic ≠ .SET_LEVEL ∧ Instr.tick.mnemonic ≠ .SET_ALL := by decide

theorem test_witness_BoundsErrorsAreExactlyTheseThree :
    exec (.select 4#8) base = .next (withResponse .S 0x01000000#32 base) ∧
    exec (.getLevel 255#8) base = .next (withResponse .S 0x01000000#32 base) ∧
    exec (.setLevel 4#8 0#16) (onF base) = .next (withResponse .F 0x01000000#32 (onF base)) := ⟨rfl, rfl, rfl⟩

/-- Each clause: no row; the wrong port; a level of 4; a level of 3; SET_ALL; GET_LEVEL. -/
theorem test_witness_CommandsAreJudgedInOrder :
    (∀ r ∈ opcodeRows, r.selects 0x51030000#32 = false) ∧
    (∃ r ∈ opcodeRows, r.selects 0x50040000#32 = true ∧ r.mnemonic ∉ [.SET_LEVEL, .SET_ALL] ∧
      r.mnemonic ∈ [.SELECT, .SET_LEVEL, .GET_LEVEL] ∧ 4 ≤ (levelField 0x50040000#32).toNat) ∧
    (∃ r ∈ opcodeRows, r.selects 0x6003FFFF#32 = true ∧ r.mnemonic ∈ [.SET_LEVEL, .SET_ALL] ∧
      ¬ 4 ≤ (levelField 0x6003FFFF#32).toNat) ∧
    (∃ r ∈ opcodeRows, r.selects 0x7000FFFF#32 = true ∧ r.mnemonic = .SET_ALL) ∧
    (∃ r ∈ opcodeRows, r.selects 0x80030000#32 = true ∧ r.mnemonic = .GET_LEVEL) ∧
    Presented .F 0x50040000#32 [] [] (given .F 0x50040000#32) :=
  ⟨by decide, by decide, by decide, by decide, by decide, given_presented _ _⟩

/-- The hypothesis of the completion statements of the operations of port S. -/
theorem test_witness_WriteByteDrivesItsEvents : base.port = .S := rfl

theorem test_witness_LatchDrivesItsEvents : base.port = .S := rfl

theorem test_witness_ClearDrivesItsEvents : base.port = .S := rfl

theorem test_witness_WriteFrameDrivesItsEvents : base.port = .S := rfl

theorem test_witness_TickDrawsTheLevelUnderTheCursor : base.port = .S := rfl

theorem test_witness_WriteByteShiftsItsByteIn : base.port = .S ∧ LinesIdle base.wires.pins := base_idle

theorem test_witness_LatchCopiesTheShiftStage : base.port = .S ∧ LinesIdle base.wires.pins := base_idle

theorem test_witness_ClearBlanksTheChain : base.port = .S ∧ LinesIdle base.wires.pins := base_idle

theorem test_witness_WriteFrameShowsItsMask : base.port = .S ∧ LinesIdle base.wires.pins := base_idle

/-- With the frame `0xBEEF` latched, as in `95_test_vectors.md` section 2.5. -/
theorem test_witness_PartialWritesShowStaleBits :
    (at' 0#2 0xF77D#16 0xF77D#16).port = .S ∧ LinesIdle (at' 0#2 0xF77D#16 0xF77D#16).wires.pins ∧
    (at' 0#2 0xF77D#16 0xF77D#16).wires.chain.out = (at' 0#2 0xF77D#16 0xF77D#16).wires.chain.sr ∧
    (see (fun s => columns s.wires.chain) (exec .latch (sendByte 0x12#8 (at' 0#2 0xF77D#16 0xF77D#16))) = some 0x12BE#16) := by
  exact ⟨rfl, ⟨rfl, rfl, rfl⟩, rfl, by decide⟩

/-- At the last instant before the latch rises, and the first after. -/
theorem test_witness_OutputsHoldWhileBitsAreShifted :
    base.port = .S ∧ (wiresAfter base.wires ((frameEvents 0x1234#16).take 50)).chain.out = 0xF77D#16 ∧
    (wiresAfter base.wires ((frameEvents 0x1234#16).take 51)).chain.out = 0x2C48#16 ∧
    (wiresAfter base.wires ((tickEvents 3 0x1234#16).take 52)).chain.out = 0xF77D#16 ∧
    (wiresAfter base.wires ((tickEvents 3 0x1234#16).take 53)).chain.out = 0x2C48#16 := by decide

theorem test_witness_TheEdgeChoiceDoesNotMatter :
    LinesIdle base.wires.pins ∧ ∃ t, exec (.writeByte 0x80#8) base = .next t := ⟨base_idle.2, _, rfl⟩

theorem test_witness_RedundantWritesDoNotMatter :
    let x : Wires := { pins := { Pins.idle with clrn := false }, chain := { sr := 0#16, out := 0xFFFF#16 } }
    (x.pins.clrn = false → x.chain.sr = 0x0000#16) ∧ (Pins.idle.clrn = false → base.wires.chain.sr = 0x0000#16) := by decide

theorem test_witness_SelectSwitchesTheRow : base.port = .S ∧ (0#8).toNat < 4 ∧ (3#8).toNat < 4 := by decide

theorem test_witness_SelectLeavesExactlyItsRowHigh : base.port = .S ∧ (0#8).toNat < 4 ∧ (3#8).toNat < 4 := by decide

theorem test_witness_RowsAreClearedBeforeOneIsSet :
    (∃ t, step (given .S 0x50030000#32) = .next t) ∧ rowsHigh (given .S 0x50030000#32).wires.pins.row ≤ 1 :=
  ⟨⟨_, rfl⟩, by decide⟩

theorem test_witness_TraceGrowsByLegalEvents : ∃ t, step (given .S 0x50030000#32) = .next t := ⟨_, rfl⟩

theorem test_witness_SetLevelOverwritesOneCell : (0#8).toNat < 4 ∧ (3#8).toNat < 4 := by decide

theorem test_witness_GetLevelReturnsTheCell : base.port = .S ∧ (0#8).toNat < 4 ∧ (3#8).toNat < 4 := by decide

theorem test_witness_SetAllMakesItsFirstStore : base.port = .S ∧ (onF base).port = .F := ⟨rfl, rfl⟩

/-- Four turns for the port of the SET_ALL. -/
def fourTurns : State := { given .F 0x70002222#32 with order := [.port .F, .port .F, .port .F, .port .F] }

theorem test_witness_SetAllEqualsFourSetLevels :
    Presented .F (encode (.setAll 0x2222#16)) [] (.port .F :: .port .F :: .port .F :: []) fourTurns := ⟨rfl, rfl, rfl⟩

theorem test_witness_TicksInsideSetAllSeeNewThenOld :
    let s : State := { given .F 0x70002222#32 with order := [.port .F, .timer, .timer] }
    Presented .F (encode (.setAll 0x2222#16)) [] (.timer :: .timer :: []) s ∧ s.cursor = 0#2 := ⟨⟨rfl, rfl, rfl⟩, rfl⟩

/-- A run of one store of port F, after which a tick may draw the level it stored to. -/
theorem test_witness_ReadsReturnTheLatestStore :
    ∃ t, RunsTo 1 { given .F 0x6000BEEF#32 with order := [.port .F, .timer] } t ∧ t.order = .timer :: [] ∧
      cursorLevel t.cursor = 0 :=
  ⟨_, (runsTo_succ ..).mpr ⟨_, rfl, (runsTo_zero ..).mpr rfl⟩, rfl, rfl⟩

/-- The same run, after which port S may read the level; and one after which port S may tick. -/
theorem test_witness_ReadsReturnTheLatestStore_port :
    (∃ t, RunsTo 1 (presentWord .S 0x80030000#32 (given .F 0x6003FFFF#32)) t ∧
      Presented .S (encode (.getLevel (BitVec.ofNat 8 (3 : Level).val))) [] [] t) ∧
    ∃ t, RunsTo 1 (presentWord .S 0x90000000#32 (given .F 0x6000BEEF#32)) t ∧ Presented .S (encode .tick) [] [] t ∧
      cursorLevel t.cursor = 0 :=
  ⟨⟨_, (runsTo_succ ..).mpr ⟨_, rfl, (runsTo_zero ..).mpr rfl⟩, rfl, rfl, rfl⟩,
    _, (runsTo_succ ..).mpr ⟨_, rfl, (runsTo_zero ..).mpr rfl⟩, ⟨rfl, rfl, rfl⟩, rfl⟩

/-- `F: SET_LEVEL 2, 0xBEEF`, then `S: GET_LEVEL 2`, with nothing between them and with a store of port F to another level. -/
theorem test_witness_StoredLevelsReadBack :
    (2#8).toNat < 4 ∧
    (∃ s, exec (.setLevel 2#8 0xBEEF#16) (onF (given .S 0x80020000#32)) = .next s ∧ s.port = .F ∧ RunsTo 0 s s ∧
      Presented .S (encode (.getLevel 2#8)) [] [] s) ∧
    ∃ s t, exec (.setLevel 2#8 0xBEEF#16) (onF (presentWord .S 0x80020000#32 (given .F 0x6003FFFF#32))) = .next s ∧
      RunsTo 1 s t ∧ (∀ x ∈ runStores 1 s, x.level.val ≠ (2#8).toNat) ∧ runStores 1 s = [⟨3, 0xFFFF#16⟩] ∧ t.port = .F ∧
      Presented .S (encode (.getLevel 2#8)) [] [] t :=
  ⟨by decide, ⟨_, rfl, rfl, (runsTo_zero ..).mpr rfl, rfl, rfl, rfl⟩,
    _, _, rfl, (runsTo_succ ..).mpr ⟨_, rfl, (runsTo_zero ..).mpr rfl⟩, by decide, by decide, rfl, rfl, rfl, rfl⟩

/-- Program P4. -/
theorem test_witness_StoreRacingATickIsNeverTorn :
    let s : State := { given .F 0x6001FF00#32 with cursor := 1#2, fb := #v[0#16, 0x00FF#16, 0#16, 0#16] }
    (1#8).toNat < 4 ∧ s.cursor.toNat = (1#8).toNat ∧ s.portF.pending = [] ∧
    s.portF.incoming = encode (.setLevel 1#8 0xFF00#16) :: [] := by exact ⟨by decide, rfl, rfl, rfl⟩

/-- A level that exists and one that does not. -/
theorem test_witness_TickCommutesWithAStoreToAnotherLevel :
    (given .F 0x6001FF00#32).cursor.toNat ≠ (1#8).toNat ∧ (given .F 0x6001FF00#32).portF.pending = [] ∧
    (given .F 0x6001FF00#32).portF.incoming = encode (.setLevel 1#8 0xFF00#16) :: [] ∧
    (given .F 0x6004FF00#32).cursor.toNat ≠ (4#8).toNat ∧
    (given .F 0x6004FF00#32).portF.incoming = encode (.setLevel 4#8 0xFF00#16) :: [] := by
  exact ⟨by decide, rfl, rfl, by decide, rfl⟩

theorem test_witness_CellsNotStoredToReadAsBefore :
    (∃ t, exec (.setLevel 2#8 0xBEEF#16) base = .next t) ∧
    (∀ x, operationStore (.setLevel 2#8 0xBEEF#16) = some x → (3 : Level) ≠ x.level) ∧
    operationStore (.setLevel 4#8 0xBEEF#16) = none := ⟨⟨_, rfl⟩, by rintro x ⟨⟩; decide, rfl⟩

theorem test_witness_PinOperationsFrame :
    base.port = .S ∧ (∃ t, exec (.select 3#8) base = .next t) ∧ (∃ t, exec (.select 4#8) base = .next t) ∧
    (Instr.select 3#8).mnemonic ∈ [.WRITE_BYTE, .LATCH, .CLEAR, .WRITE_FRAME, .SELECT] := ⟨rfl, ⟨_, rfl⟩, ⟨_, rfl⟩, by decide⟩

theorem test_witness_FrameBufferOperationsFrame :
    (∃ t, exec (.setAll 0xFFFF#16) (onF base) = .next t) ∧ (∃ t, exec (.getLevel 3#8) base = .next t) ∧
    (Instr.setAll 0xFFFF#16).mnemonic ∈ [.SET_LEVEL, .SET_ALL, .GET_LEVEL] := ⟨⟨_, rfl⟩, ⟨_, rfl⟩, by decide⟩

theorem test_witness_TickShowsItsLevel : (deliverTick base).order = .timer :: [] ∧ LinesIdle (deliverTick base).wires.pins :=
  ⟨rfl, rfl, rfl, rfl⟩

theorem test_witness_TickEmitsLowByteThenHighByte :
    (3#8).toNat < 4 ∧ ∃ s₁, exec (.setLevel 3#8 0xBEEF#16) (deliverTick (at' 3#2 0#16 0#16)) = .next s₁ ∧
      s₁.cursor.toNat = (3#8).toNat ∧ s₁.order = .timer :: [] := ⟨by decide, _, rfl, rfl, rfl⟩

/-- The ghost window of `95_test_vectors.md` section 2.8: its first and last instant, and the instant after. -/
theorem test_witness_GhostWindowShowsThePreviousFrame :
    let x : Wires := { pins := { Pins.idle with row := 0b0001#4 }, chain := { sr := 0xF000#16, out := 0xF000#16 } }
    base.port = .S ∧ LinesIdle base.wires.pins ∧
    see (fun s => (s.port, s.cursor, s.wires)) (exec .tick (image base)) = some (.S, 1#2, x) ∧
    columns (wiresAfter x ((tickEvents 1 0x00F0#16).take 2)).chain = 0x000F#16 ∧
    columns (wiresAfter x ((tickEvents 1 0x00F0#16).take 52)).chain = 0x000F#16 ∧
    columns (wiresAfter x ((tickEvents 1 0x00F0#16).take 53)).chain = 0x00F0#16 :=
  ⟨rfl, ⟨rfl, rfl, rfl⟩, by decide, by decide, by decide, by decide⟩

/-- A tick after a tick, from cursor 0. -/
theorem test_witness_TicksAloneMoveTheCursor :
    base.cursor = 0#2 ∧ ∃ t, RunsTo 1 { base with order := [.timer, .timer] } t ∧ eventTicks (nextEvent t) = true ∧
      runTicks 1 { base with order := [.timer, .timer] } = 1 :=
  ⟨rfl, _, (runsTo_succ ..).mpr ⟨_, rfl, (runsTo_zero ..).mpr rfl⟩, by decide, by decide⟩

theorem test_witness_TickInputEqualsTickCommand : base.portS.pending = [] := rfl

theorem test_witness_FourTicksDrawEveryLevelOnce :
    ({ base with order := [.timer, .timer, .timer, .timer] } : State).order = .timer :: .timer :: .timer :: .timer :: [] := rfl

/-- A state with a row enabled and a SET_ALL half done. -/
def midway : State :=
  { fourTurns with
    wires := { pins := { Pins.idle with row := 0b1000#4 }, chain := base.wires.chain }
    trace := [.row 0b0000#4, .row 0b1000#4]
    portF := { fourTurns.portF with pending := [⟨3, 0x2222#16⟩] } }

theorem test_witness_EveryStepKeepsTheInvariant : Inv midway ∧ ∃ t, step midway = .next t := by
  refine ⟨⟨⟨rfl, rfl, rfl⟩, rfl, ?_, ⟨0x2222#16, ⟨[⟨1, 0x2222#16⟩, ⟨2, 0x2222#16⟩], rfl⟩⟩, ⟨0#16, List.nil_suffix⟩⟩, _, rfl⟩
  have h : ∀ es ∈ midway.trace.inits, rowsHigh (pinsAfter Pins.idle es).row ≤ 1 := by decide
  exact fun es hes => h es ((List.mem_inits es midway.trace).mpr hes)

theorem test_witness_TheTraceExplainsTheWires :
    ExplainedByTrace { sr := 0x1234#16, out := 0xF77D#16 } (given .S 0x30000000#32) ∧
    ∃ t, step (given .S 0x30000000#32) = .next t := ⟨rfl, _, rfl⟩

theorem test_witness_PortFCannotTouchTheWire :
    (given .F 0x6003FFFF#32).order = .port .F :: [] ∧ ∃ t, step (given .F 0x6003FFFF#32) = .next t := ⟨rfl, _, rfl⟩

/-- Two states that differ in everything but port F. -/
theorem test_witness_PortFLearnsNothing :
    ∃ s₁ s₂ : State, s₁.order = .port .F :: [] ∧ s₂.order = .port .F :: [.timer] ∧ s₁.portF = s₂.portF ∧
      s₁.fb ≠ s₂.fb ∧ s₁.cursor ≠ s₂.cursor ∧ (∃ t, step s₁ = .next t) ∧ ∃ t, step s₂ = .next t :=
  ⟨given .F 0x6003FFFF#32, { image (given .F 0x6003FFFF#32) with cursor := 2#2, order := [.port .F, .timer] },
    rfl, rfl, rfl, by decide, by decide, ⟨_, rfl⟩, _, rfl⟩

/-- Each clause: steps that change the FrameBuffer and PENDING; the cursor; and steps that add each kind of pin event. -/
theorem test_witness_OnlyOwnersWrite :
    (∃ t, step (given .F 0x7000FFFF#32) = .next t ∧ t.fb ≠ (given .F 0x7000FFFF#32).fb ∧
      t.portF.pending ≠ (given .F 0x7000FFFF#32).portF.pending) ∧
    (∃ t, step (deliverTick base) = .next t ∧ t.cursor ≠ (deliverTick base).cursor) ∧
    (∃ t, step (given .S 0x10000080#32) = .next t ∧ .data true ∈ t.trace ∧ .clk true ∈ t.trace) ∧
    (∃ t, step (given .S 0x30000000#32) = .next t ∧ .clrn false ∈ t.trace ∧ .latch true ∈ t.trace) ∧
    ∃ t, step (given .S 0x50030000#32) = .next t ∧ .row 0b1000#4 ∈ t.trace :=
  ⟨⟨_, rfl, by decide, by decide⟩, ⟨_, rfl, by decide⟩, ⟨_, rfl, by decide, by decide⟩, ⟨_, rfl, by decide, by decide⟩,
    _, rfl, by decide⟩

/-- A step whose response carries data. -/
theorem test_witness_ResponseWordsHaveTheirForm :
    ∃ t, step (image (given .S 0x80030000#32)) = .next t ∧ (t.portState .S).responses = [0x0000F000#32] := ⟨_, rfl, by decide⟩

end Sys2Proof.Tests
end

/-! # The opcode table read field by field, and the decode procedure (R52, R55, R58) -/

namespace Sys2Proof.Machine

/-! ## A command word is its four fields (R51) -/

theorem word_eq_append_fields (w : Word) : w = opField w ++ (zField w ++ (levelField w ++ immField w)) := by
  apply BitVec.eq_of_getLsbD_eq
  intro i hi
  simp only [opField, zField, levelField, immField, BitVec.getLsbD_append, BitVec.getLsbD_extractLsb']
  grind

theorem word_eq_iff_fields {v w : Word} :
    v = w ↔ opField v = opField w ∧ zField v = zField w ∧ levelField v = levelField w ∧ immField v = immField w := by
  constructor
  · rintro rfl
    exact ⟨rfl, rfl, rfl, rfl⟩
  · rintro ⟨hop, hz, hlevel, himm⟩
    rw [word_eq_append_fields v, word_eq_append_fields w, hop, hz, hlevel, himm]

/-- The mask of WRITE_BYTE keeps `imm[15:8]` (R55). -/
theorem immField_and_eq_zero_iff (w : Word) : immField w &&& 0xFF00#16 = 0x0000#16 ↔ immHighField w = 0x00#8 := by
  have split : immField w = immHighField w ++ valueField w := by
    apply BitVec.eq_of_getLsbD_eq
    intro i hi
    simp only [immField, immHighField, valueField, BitVec.getLsbD_append, BitVec.getLsbD_extractLsb']
    grind
  have masked : immField w &&& 0xFF00#16 = immHighField w ++ 0x00#8 := by
    rw [split]
    exact (BitVec.and_append (x₂ := 0xFF#8) (y₂ := 0x00#8)).trans
      (congrArg₂ HAppend.hAppend BitVec.and_allOnes BitVec.and_zero)
  rw [masked]
  exact BitVec.append_left_inj (s₂ := 0x00#8) 0x00#8

/-! ## The rows of the opcode table (R52) -/

/-- R52's `w & mask == match`, field by field. -/
theorem selects_iff_fields (r : OpcodeRow) (w : Word) :
    r.selects w = true ↔
      opField w &&& opField r.maskBits = opField r.matchBits ∧ zField w &&& zField r.maskBits = zField r.matchBits ∧
      levelField w &&& levelField r.maskBits = levelField r.matchBits ∧
      immField w &&& immField r.maskBits = immField r.matchBits := by
  rw [OpcodeRow.selects, beq_iff_eq, word_eq_iff_fields]
  simp only [opField, zField, levelField, immField, BitVec.extractLsb'_and]

/-- R52, R55: a row is selected by its operation code and by zeros in the fields that must be zero for that code. -/
theorem selects_iff {r : OpcodeRow} (hr : r ∈ opcodeRows) (w : Word) :
    r.selects w = true ↔ opField w = opField r.matchBits ∧ ¬ MustBeZeroBroken w := by
  have op_whole : opField w &&& 0xF#4 = opField w := BitVec.and_allOnes
  have z_whole : zField w &&& 0xF#4 = zField w := BitVec.and_allOnes
  have level_whole : levelField w &&& 0xFF#8 = levelField w := BitVec.and_allOnes
  have imm_whole : immField w &&& 0xFFFF#16 = immField w := BitVec.and_allOnes
  have imm_high := immField_and_eq_zero_iff w
  rw [selects_iff_fields, MustBeZeroBroken]
  generalize opField w = op, zField w = z, levelField w = level, immField w = imm, immHighField w = high at *
  simp only [opcodeRows, List.mem_cons, List.not_mem_nil, or_false] at hr
  obtain rfl | rfl | rfl | rfl | rfl | rfl | rfl | rfl | rfl := hr
  all_goals
    simp only [opField, zField, levelField, immField, BitVec.reduceExtractLsb', op_whole, z_whole, level_whole,
      imm_whole, imm_high, BitVec.and_zero]
    refine and_congr_right fun hop => ?_
    simp [hop]

/-- R52: the rows have different operation codes. -/
theorem row_eq_of_opField_eq :
    ∀ r₁ ∈ opcodeRows, ∀ r₂ ∈ opcodeRows, opField r₁.matchBits = opField r₂.matchBits → r₁ = r₂ := by
  decide

/-- R52: no two rows overlap. -/
theorem row_unique {w : Word} {r₁ r₂ : OpcodeRow} (h₁ : r₁ ∈ opcodeRows) (h₂ : r₂ ∈ opcodeRows)
    (s₁ : r₁.selects w = true) (s₂ : r₂.selects w = true) : r₁ = r₂ :=
  row_eq_of_opField_eq r₁ h₁ r₂ h₂ (((selects_iff h₁ w).mp s₁).1.symm.trans ((selects_iff h₂ w).mp s₂).1)

/-- R52, R59: the operation codes of the rows are those that are not reserved. -/
theorem exists_row_of_op_iff :
    ∀ op : BitVec 4, (∃ r ∈ opcodeRows, op = opField r.matchBits) ↔ ¬ (op = 0x0#4 ∨ 0xA ≤ op.toNat) := by
  decide

/-- R59: the words that select no row. -/
theorem no_row_iff (w : Word) :
    (∀ r ∈ opcodeRows, r.selects w = false) ↔ OpReserved w ∨ MustBeZeroBroken w := by
  have some_row : (∃ r ∈ opcodeRows, r.selects w = true) ↔ ¬ OpReserved w ∧ ¬ MustBeZeroBroken w := by
    rw [OpReserved, ← exists_row_of_op_iff]
    constructor
    · rintro ⟨r, hr, hs⟩
      obtain ⟨hop, hz⟩ := (selects_iff hr w).mp hs
      exact ⟨⟨r, hr, hop⟩, hz⟩
    · rintro ⟨⟨r, hr, hop⟩, hz⟩
      exact ⟨r, hr, (selects_iff hr w).mpr ⟨hop, hz⟩⟩
  rw [← not_iff_not, not_or, ← some_row]
  simp

/-! ## What the decoder answers (R58 step 1, R59) -/

/-- The row a word selects is the row it is decoded by. -/
theorem decode_of_selects {w : Word} {r : OpcodeRow} (hr : r ∈ opcodeRows) (hs : r.selects w = true) :
    decode w = .ok (operation r.mnemonic w) := by
  have found : opcodeRows.find? (fun r => r.selects w) = some r := by
    cases hf : opcodeRows.find? (fun r => r.selects w) with
    | none => exact absurd hs (List.find?_eq_none.mp hf r hr)
    | some r' =>
      rw [row_unique hr (List.mem_of_find?_eq_some hf) hs (List.find?_some (p := fun r : OpcodeRow => r.selects w) hf)]
  simp only [decode, found]

theorem isReservedOp_iff (w : Word) : isReservedOp (opField w) = true ↔ OpReserved w := by
  simp [isReservedOp, OpReserved, BitVec.le_def]

theorem decode_of_no_row {w : Word} (h : ∀ r ∈ opcodeRows, r.selects w = false) :
    decode w = .error (if isReservedOp (opField w) then .reservedOp else .mustBeZero) := by
  have none_found : opcodeRows.find? (fun r => r.selects w) = none :=
    List.find?_eq_none.mpr fun r hr => by simp only [h r hr, Bool.false_eq_true, not_false_eq_true]
  simp only [decode, none_found]

theorem decode_of_reserved {w : Word} (h : OpReserved w) : decode w = .error .reservedOp := by
  rw [decode_of_no_row ((no_row_iff w).mpr (.inl h)), if_pos ((isReservedOp_iff w).mpr h)]

theorem decode_of_mustBeZeroBroken {w : Word} (hr : ¬ OpReserved w) (hz : MustBeZeroBroken w) :
    decode w = .error .mustBeZero := by
  rw [decode_of_no_row ((no_row_iff w).mpr (.inr hz)), if_neg (mt (isReservedOp_iff w).mp hr)]

/-- R59: every word with a defined code and zeros where they must be decodes. -/
theorem decode_of_legal {w : Word} (h : ¬ (OpReserved w ∨ MustBeZeroBroken w)) : ∃ i, decode w = .ok i := by
  rw [← no_row_iff] at h
  push Not at h
  obtain ⟨r, hr, hs⟩ := h
  exact ⟨_, decode_of_selects hr (by simpa using hs)⟩

/-- Settles O5: a reserved code, else a broken must-be-zero field, else a row; `decode` answers each differently. -/
theorem mustBeZeroFieldsAreChecked : Obligations.MustBeZeroFieldsAreChecked := by
  intro w
  by_cases hr : OpReserved w
  · simp [decode_of_reserved hr, hr]
  · by_cases hz : MustBeZeroBroken w
    · simp [decode_of_mustBeZeroBroken hr hz, hr, hz]
    · obtain ⟨i, hi⟩ := decode_of_legal (not_or.mpr ⟨hr, hz⟩)
      simp [hi, hr, hz]

end Sys2Proof.Machine

/-! # The decode procedure: row, permission, bounds, execution (R58) -/

namespace Sys2Proof.Machine

/-! ## The state in which the word is executed -/

section

variable (p : Port) (ws : List Word) (rest : List Agent) (s : State)

@[simp] theorem wordTaken_port : (wordTaken p ws rest s).port = p := by cases p <;> rfl

@[simp] theorem wordTaken_responses :
    ((wordTaken p ws rest s).portState p).responses = (s.portState p).responses := by cases p <;> rfl

@[simp] theorem writeLevel_portState (l : Level) (v : Mask) : (s.writeLevel l v).portState p = s.portState p := by
  cases p <;> rfl

/-- A tick leaves what the ports hold alone. -/
@[simp] theorem refreshTick_portState : (refreshTick s).portState p = s.portState p := by
  rw [refreshTick_eq]
  cases p <;> rfl

end

/-! ## The step runs the word -/

/-- R50: the step takes the word presented, and runs it. -/
theorem step_of_presented {p : Port} {w : Word} {ws : List Word} {rest : List Agent} {s : State}
    (h : Presented p w ws rest s) :
    step s = runWord w (wordTaken p ws rest s) := by
  obtain ⟨hturn, howed, hword⟩ := h
  have taken : takeWord p (servePort p s) = wordTaken p ws rest s := by
    cases p <;> simp_all [takeWord, servePort, passTurn, wordTaken]
  rw [step_eq s _ ((nextEvent_port s p rest hturn).trans (portEvent_command s p w ws howed hword)), runEvent, taken]

/-- R59, R112: a word that selects no row is answered `ILLEGAL`. -/
theorem runWord_of_no_row (s : State) {w : Word} (h : ∀ r ∈ opcodeRows, r.selects w = false) :
    runWord w s = .next (withResponse s.port 0x02000000#32 s) := by
  rw [runWord, decode_of_no_row h]
  exact congrArg _ (raiseError_eq s .illegal)

/-- R58 step 4: a word that selects a row runs the row's operation. -/
theorem runWord_of_selects (s : State) {w : Word} {r : OpcodeRow} (hr : r ∈ opcodeRows)
    (hs : r.selects w = true) :
    runWord w s = exec (operation r.mnemonic w) s := by
  rw [runWord, decode_of_selects hr hs]

/-! ## The operands the tests of R58 look at -/

@[simp] theorem operation_mnemonic (m : Mnemonic) (w : Word) : (operation m w).mnemonic = m := by
  cases m <;> rfl

/-- The level operand of an operation that has one (R53). -/
def levelOf : Instr → Option Byte
  | .select l => some l
  | .setLevel l _ => some l
  | .getLevel l => some l
  | _ => none

/-- R53: SELECT, SET_LEVEL and GET_LEVEL take their level from bits 23:16. -/
theorem levelOf_operation_eq_some (m : Mnemonic) (w : Word) (l : Byte) :
    levelOf (operation m w) = some l ↔ m ∈ [.SELECT, .SET_LEVEL, .GET_LEVEL] ∧ levelField w = l := by
  cases m <;> simp [levelOf, operation]

/-- R58 step 2, R121: the operation may be issued on the port. -/
def Permitted (p : Port) (i : Instr) : Prop := p = .S ∨ i.mnemonic ∈ [.SET_LEVEL, .SET_ALL]

/-! ## What each test answers -/

/-- R58 step 2, R113: an operation that is not permitted is answered `NOT_PERMITTED`. -/
theorem exec_of_not_permitted {i : Instr} {s : State} (hp : s.port = .F) (hi : i.mnemonic ∉ [.SET_LEVEL, .SET_ALL]) :
    exec i s = .next (withResponse .F 0x03000000#32 s) := by
  cases i with
  | setLevel l m => simp [Instr.mnemonic] at hi
  | setAll m => simp [Instr.mnemonic] at hi
  | _ => exact congrArg _ (onSystemPort_F s _ hp)

/-- R58 step 3, R111: a permitted operation with a level of 4 or more is answered `BOUNDS`. -/
theorem exec_of_level_ge {i : Instr} {s : State} {l : Byte} (hp : Permitted s.port i) (hi : levelOf i = some l)
    (hl : 4 ≤ l.toNat) : exec i s = .next (withResponse s.port 0x01000000#32 s) := by
  cases i with
  | select k =>
    cases hi
    exact congrArg _ ((onSystemPort_S s _ (hp.resolve_right (by simp [Instr.mnemonic]))).trans (withLevel_ge s _ hl))
  | getLevel k =>
    cases hi
    exact congrArg _ ((onSystemPort_S s _ (hp.resolve_right (by simp [Instr.mnemonic]))).trans (withLevel_ge s _ hl))
  | setLevel k m =>
    cases hi
    exact congrArg _ (withLevel_ge s _ hl)
  | _ => cases hi

/-- R88: the event that decodes a SET_ALL returns no response and leaves three stores owed. -/
theorem exec_setAll_portState (m : Mask) (s : State) :
    ∃ t, exec (.setAll m) s = .next t ∧ (t.portState s.port).responses = (s.portState s.port).responses ∧
      (t.portState s.port).pending = setAllRemainder m := by
  refine ⟨(s.writeLevel 0 m).setPending s.port (setAllRemainder m), rfl, ?_⟩
  rw [State.setPending, portState_setPortState_same]
  cases s.port <;> exact ⟨rfl, rfl⟩

/-- R56: answering on a port in a state that holds there what `s` holds. -/
theorem responses_of_answered {s t : State} {p : Port} (w : Word) (h : t.portState p = s.portState p) :
    ((withResponse p w t).portState p).responses = (s.portState p).responses ++ [w] := by
  rw [withResponse_responses, if_pos rfl, h]

/-- R56 to R58: an operation that passes both tests, and is no SET_ALL, is answered `OK`, with data in GET_LEVEL alone. -/
theorem exec_answers_ok {i : Instr} {s : State} (hp : Permitted s.port i) (hl : ∀ l, levelOf i = some l → l.toNat < 4)
    (hi : i.mnemonic ≠ .SET_ALL) :
    ∃ t, exec i s = .next t ∧ ∃ data : Mask,
      (t.portState s.port).responses = (s.portState s.port).responses ++ [0x0000#16 ++ data] ∧
      (i.mnemonic ≠ .GET_LEVEL → data = 0#16) := by
  obtain ⟨t, ht, e⟩ := exec_effect i s
  refine ⟨t, ht, ?_⟩
  cases e with
  | notPermitted hF h₁ h₂ => simp_all [Permitted]
  | bounds l hc hge =>
    have hlevel : levelOf i = some l := by
      obtain ⟨m, rfl⟩ | ⟨-, rfl | rfl⟩ := hc <;> rfl
    exact absurd (hl l hlevel) (Nat.not_lt.mpr hge)
  | lines es hS hc => exact ⟨0#16, by rw [hS]; exact responses_of_answered _ rfl, fun _ => rfl⟩
  | setLevel l m h he => exact ⟨0#16, responses_of_answered _ (writeLevel_portState ..), fun _ => rfl⟩
  | setAll m he => exact absurd (congrArg Instr.mnemonic he) hi
  | getLevel l h he hS =>
    refine ⟨s.readLevel ⟨l.toNat, h⟩, by rw [hS]; exact responses_of_answered _ rfl, fun hne => ?_⟩
    exact absurd (congrArg Instr.mnemonic he) hne
  | tick he hS =>
    exact ⟨0#16, by rw [hS]; exact responses_of_answered _ (refreshTick_portState ..), fun _ => rfl⟩

/-- Settles O16: the clauses are the outcomes of R58, each by its own lemma. -/
theorem commandsAreJudgedInOrder : Obligations.CommandsAreJudgedInOrder := by
  intro p w ws rest s h
  have served := wordTaken_port p ws rest s
  rw [step_of_presented h]
  refine ⟨fun hnone => ?_, fun r hr hs => ?_⟩
  · rw [runWord_of_no_row _ hnone, served]
  have hm := operation_mnemonic r.mnemonic w
  have hlevel := levelOf_operation_eq_some r.mnemonic w
  rw [runWord_of_selects _ hr hs]
  refine ⟨fun ⟨hF, hnot⟩ => ?not_permitted, fun hperm => ?permitted⟩
  case not_permitted =>
    subst hF
    exact exec_of_not_permitted served (hm.symm ▸ hnot)
  case permitted =>
    have perm : Permitted (wordTaken p ws rest s).port (operation r.mnemonic w) := by
      rwa [Permitted, served, hm]
    refine ⟨fun ⟨htakes, hge⟩ => ?bounds, fun hin => ⟨rfl, ?ok⟩⟩
    case bounds =>
      rw [exec_of_level_ge perm ((hlevel _).mpr ⟨htakes, rfl⟩) hge, served]
    case ok =>
      by_cases hall : r.mnemonic = .SET_ALL
      · obtain ⟨t, ht, hresp, hpend⟩ := exec_setAll_portState (immField w) (wordTaken p ws rest s)
        rw [served, wordTaken_responses] at hresp
        rw [served] at hpend
        exact ⟨t, by rw [hall]; exact ht, fun _ => ⟨hresp, hpend⟩, fun hne => absurd hall hne⟩
      · have below : ∀ l, levelOf (operation r.mnemonic w) = some l → l.toNat < 4 := by
          intro l hl
          obtain ⟨htakes, rfl⟩ := (hlevel l).mp hl
          exact Nat.not_le.mp fun hge => hin ⟨htakes, hge⟩
        obtain ⟨t, ht, data, hresp, hdata⟩ := exec_answers_ok perm below (hm.symm ▸ hall)
        rw [served, wordTaken_responses] at hresp
        exact ⟨t, ht, fun he => absurd he hall, fun _ => ⟨data, hresp, hm ▸ hdata⟩⟩

end Sys2Proof.Machine

/-! # The outputs hold until the latch pulse (R75) -/

namespace Sys2Proof.Machine

/-! ## What WRITE_FRAME and TICK do on port S -/

/-- R73: WRITE_FRAME drives its events and is answered `OK`. -/
theorem exec_writeFrame_of_S {s : State} (m : Mask) (h : s.port = .S) :
    exec (.writeFrame m) s = .next (withResponse .S 0x00000000#32 (withEvents (frameEvents m) s)) := by
  rw [exec, execWriteFrame, onSystemPort_S _ _ h, sendFrame_eq, respond_eq, withEvents_port, h, responseWord_ok_zero]

@[simp] theorem refreshTick_port (s : State) : (refreshTick s).port = s.port := by
  rw [refreshTick_eq, withEvents_port]

@[simp] theorem refreshTick_trace (s : State) :
    (refreshTick s).trace = s.trace ++ tickEvents (cursorLevel s.cursor) (s.readLevel (cursorLevel s.cursor)) := by
  rw [refreshTick_eq, withEvents_trace]

/-- R99: TICK has the effect of a tick and is answered `OK`. -/
theorem exec_tick_of_S {s : State} (h : s.port = .S) :
    exec .tick s = .next (withResponse .S 0x00000000#32 (refreshTick s)) := by
  rw [exec, execTick, onSystemPort_S _ _ h, respond_eq, refreshTick_port, h, responseWord_ok_zero]

/-! ## The events before the latch pulse -/

/-- The 50 events that shift a frame into the chain: those of WRITE_FRAME before its latch pulse (R73). -/
def shiftEvents (m : Mask) : List PinEvent := byteEvents (lowByte m) ++ byteEvents (highByte m)

theorem frameEvents_eq_shiftEvents (m : Mask) : frameEvents m = shiftEvents m ++ latchEvents := by
  rw [frameEvents_eq, shiftEvents, List.append_assoc]

theorem tickEvents_eq_shiftEvents (l : Level) (m : Mask) :
    tickEvents l m = (selectEvents l ++ shiftEvents m) ++ latchEvents := by
  rw [tickEvents, frameEvents_eq_shiftEvents, List.append_assoc]

/-- R60, R73: shifting a frame emits its low byte, then its high byte. -/
theorem emittedBits_shiftEvents (d : Bool) (m : Mask) :
    emittedBits d (shiftEvents m) = byteBits (lowByte m) ++ byteBits (highByte m) := rfl

theorem length_byteBits (v : Byte) : (byteBits v).length = 8 := rfl

/-- R60: the row events of a tick emit nothing and leave the data line alone. -/
theorem emittedBits_selectEvents_append (d : Bool) (l : Level) (es : List PinEvent) :
    emittedBits d (selectEvents l ++ es) = emittedBits d es := rfl

theorem not_latch_of_mem_byteEvents {v : Byte} {e : PinEvent} (he : e ∈ byteEvents v) (b : Bool) : e ≠ .latch b := by
  rintro rfl
  simp [byteEvents, clockedBit] at he

theorem not_latch_of_mem_shiftEvents {m : Mask} {e : PinEvent} (he : e ∈ shiftEvents m) (b : Bool) : e ≠ .latch b :=
  (List.mem_append.mp he).elim (not_latch_of_mem_byteEvents · b) (not_latch_of_mem_byteEvents · b)

theorem not_latch_of_mem_selectEvents {l : Level} {e : PinEvent} (he : e ∈ selectEvents l) (b : Bool) :
    e ≠ .latch b := by
  rintro rfl
  simp [selectEvents] at he

/-! ## The outputs hold -/

/-- R75: where `n` events without a latch event stand before a latch pulse, every instant up to the `n`th shows the old outputs. -/
theorem outputs_hold_before_latchEvents (x : Wires) {es : List PinEvent} {n : Nat} (hn : es.length = n)
    (hes : ∀ e ∈ es, ∀ b, e ≠ .latch b) :
    (es ++ latchEvents).take n = es ∧ (es ++ latchEvents).drop n = latchEvents ∧
      ∀ k, k ≤ n → (wiresAfter x ((es ++ latchEvents).take k)).chain.out = x.chain.out := by
  refine ⟨List.take_left' hn, List.drop_left' hn, fun k hk => wiresAfter_out _ x fun e he => hes e ?_⟩
  rw [List.take_append_of_le_length (hn ▸ hk)] at he
  exact List.mem_of_mem_take he

/-- Settles O26: the events of both operations are a shifted frame, with its 16 bits and no latch event, and then the latch pulse. -/
theorem outputsHoldWhileBitsAreShifted : Obligations.OutputsHoldWhileBitsAreShifted := by
  intro s hS
  have sixteen (m : Mask) : (emittedBits s.wires.pins.data (shiftEvents m)).length = 16 := by
    rw [emittedBits_shiftEvents, List.length_append, length_byteBits, length_byteBits]
  constructor
  · intro m
    obtain ⟨before, last, hold⟩ := outputs_hold_before_latchEvents s.wires (es := shiftEvents m) (n := 50) rfl
      fun _ he => not_latch_of_mem_shiftEvents he
    refine ⟨_, shiftEvents m ++ latchEvents, exec_writeFrame_of_S m hS, ?_, ?_, last, hold⟩
    · rw [withResponse_trace, withEvents_trace, frameEvents_eq_shiftEvents]
    · rw [before, sixteen]
  · let l := cursorLevel s.cursor
    let m := s.readLevel l
    obtain ⟨before, last, hold⟩ := outputs_hold_before_latchEvents s.wires (es := selectEvents l ++ shiftEvents m) (n := 52)
      rfl fun _ he b => (List.mem_append.mp he).elim (not_latch_of_mem_selectEvents · b) (not_latch_of_mem_shiftEvents · b)
    refine ⟨_, (selectEvents l ++ shiftEvents m) ++ latchEvents, exec_tick_of_S hS, ?_, ?_, last, hold⟩
    · rw [withResponse_trace, refreshTick_trace, tickEvents_eq_shiftEvents]
    · rw [before, emittedBits_selectEvents_append, sixteen]

end Sys2Proof.Machine

/-! # The row lines: one row at a time, switched by a clear and a set (R81, R82) -/

namespace Sys2Proof.Machine

/-! ## The row of a level -/

theorem rowOfLevel_eq_shiftLeft (l : Level) : rowOfLevel l = 0b0001#4 <<< l.val := (rowBit_eq l).symm

theorem rowsHigh_rowOfLevel : ∀ l : Level, rowsHigh (rowOfLevel l) = 1 := by decide

theorem rowOfLevel_getLsbD : ∀ l k : Level, (rowOfLevel l).getLsbD k = true ↔ k = l := by decide

/-! ## SELECT on port S -/

/-- R80: SELECT of a level that exists drives its two events and is answered `OK`. -/
theorem exec_select_of_S {s : State} {level : Byte} (hS : s.port = .S) (h : level.toNat < 4) :
    exec (.select level) s =
      .next (withResponse .S 0x00000000#32 (withEvents (selectEvents ⟨level.toNat, h⟩) s)) := by
  rw [exec, execSelect, onSystemPort_S _ _ hS, withLevel_lt _ _ h, selectRow_eq, respond_eq, withEvents_port, hS,
    responseWord_ok_zero]

/-- Settles O30: the row lines end as the row of the level, in which exactly its own line is high. -/
theorem selectLeavesExactlyItsRowHigh : Obligations.SelectLeavesExactlyItsRowHigh := by
  intro level s hS h
  let l : Level := ⟨level.toNat, h⟩
  let t := withResponse .S 0x00000000#32 (withEvents (selectEvents l) s)
  have row : t.wires.pins.row = rowOfLevel l := by
    rw [withResponse_wires, withEvents_wires, wiresAfter_selectEvents]
  refine ⟨t, exec_select_of_S hS h, rfl, row.trans (rowOfLevel_eq_shiftLeft l), ?_, fun k => ?_⟩
  · rw [row, rowsHigh_rowOfLevel]
  · rw [row, rowOfLevel_getLsbD, Fin.ext_iff]

/-! ## The row events of a step -/

/-- None of the events drives the row lines. -/
def NoRowEvent (es : List PinEvent) : Prop := ∀ e ∈ es, ∀ v, e ≠ .row v

theorem noRowEvent_append {es fs : List PinEvent} (he : NoRowEvent es) (hf : NoRowEvent fs) : NoRowEvent (es ++ fs) :=
  fun _ h => (List.mem_append.mp h).elim (he _) (hf _)

theorem noRowEvent_nil : NoRowEvent [] := nofun

theorem noRowEvent_byteEvents (v : Byte) : NoRowEvent (byteEvents v) := by
  rintro e he r rfl
  simp [byteEvents, clockedBit] at he

theorem noRowEvent_latchEvents : NoRowEvent latchEvents := by
  rintro e he r rfl
  simp [latchEvents] at he

theorem noRowEvent_clearEvents : NoRowEvent clearEvents := by
  rintro e he r rfl
  simp [clearEvents] at he

theorem noRowEvent_frameEvents (m : Mask) : NoRowEvent (frameEvents m) := by
  rw [frameEvents_eq]
  exact noRowEvent_append (noRowEvent_byteEvents _) (noRowEvent_append (noRowEvent_byteEvents _) noRowEvent_latchEvents)

/-- R80, R95: a span that drives the row lines at most once, by the two events of a SELECT at its start. -/
inductive RowSwitchedFirst : List PinEvent → Prop
  | never {es : List PinEvent} : NoRowEvent es → RowSwitchedFirst es
  | select (l : Level) {es : List PinEvent} : NoRowEvent es → RowSwitchedFirst (selectEvents l ++ es)

/-- What led from `s` to `t` did to the lines and TRACE no more than drive events that switch the row first or not at all. -/
def DrivesRowFirst (s t : State) : Prop :=
  ∃ es, t.trace = s.trace ++ es ∧ t.wires = wiresAfter s.wires es ∧ RowSwitchedFirst es

theorem drivesRowFirst_of_untouched {s t : State} (ht : t.trace = s.trace) (hw : t.wires = s.wires) :
    DrivesRowFirst s t :=
  ⟨[], by rw [ht, List.append_nil], hw, .never noRowEvent_nil⟩

/-- R95: a tick switches the row, then sends its frame. -/
theorem drivesRowFirst_refreshTick (s : State) : DrivesRowFirst s (refreshTick s) :=
  ⟨_, refreshTick_trace s, by rw [refreshTick_eq, withEvents_wires], .select _ (noRowEvent_frameEvents _)⟩

/-- R70 to R73, R80: of the operations that drive events and no tick, SELECT alone drives the row lines. -/
theorem drivesRowFirst_of_execEffect {i : Instr} {s t : State} (e : ExecEffect i s t) : DrivesRowFirst s t := by
  cases e with
  | lines es hS hes =>
    refine ⟨es, by rw [withResponse_trace, withEvents_trace], by rw [withResponse_wires, withEvents_wires], ?_⟩
    obtain ⟨v, -, rfl⟩ | ⟨-, rfl⟩ | ⟨-, rfl⟩ | ⟨m, -, rfl⟩ | ⟨l, h, -, rfl⟩ := hes
    · exact .never (noRowEvent_byteEvents v)
    · exact .never noRowEvent_latchEvents
    · exact .never noRowEvent_clearEvents
    · exact .never (noRowEvent_frameEvents m)
    · exact .select ⟨l.toNat, h⟩ noRowEvent_nil
  | tick he hS =>
    obtain ⟨es, ht, hw, hes⟩ := drivesRowFirst_refreshTick s
    exact ⟨es, by rw [withResponse_trace, ht], by rw [withResponse_wires, hw], hes⟩
  | notPermitted | bounds | setLevel | setAll | getLevel => exact drivesRowFirst_of_untouched (by simp) (by simp)

/-- R88: a later store of a SET_ALL touches no line. -/
theorem drivesRowFirst_makePendingStore (x : PendingStore) (rest : List PendingStore) (s : State) :
    DrivesRowFirst s (makePendingStore x rest s) := by
  cases rest <;> exact drivesRowFirst_of_untouched (by simp [makePendingStore]) (by simp [makePendingStore])

/-- Every step switches the row first or not at all. -/
theorem drivesRowFirst_of_step {s t : State} (h : step s = .next t) : DrivesRowFirst s t := by
  cases step_cases h with
  | idle he => exact drivesRowFirst_of_untouched (passTurn_trace s) (passTurn_wires s)
  | tick he => exact drivesRowFirst_refreshTick (passTurn s)
  | command p w i t he hd e =>
    have driven := drivesRowFirst_of_execEffect e
    rwa [DrivesRowFirst, takeWord_servePort_trace, takeWord_servePort_wires] at driven
  | illegal p w e he hd => exact drivesRowFirst_of_untouched (by simp) (by simp)
  | store p x rest he => exact drivesRowFirst_makePendingStore x rest (servePort p s)

/-! ## What such a span shows at every instant -/

/-- A span with no row event keeps the row lines of its start at every instant. -/
theorem pinsAfter_row_of_isPrefix {x : Wires} {es fs : List PinEvent} (h : NoRowEvent es) (hfs : fs <+: es) :
    (pinsAfter x.pins fs).row = x.pins.row := by
  rw [← wiresAfter_pins, wiresAfter_row fs x fun e he => h e (hfs.subset he)]

/-- R81: at every instant the row lines are those of the start, all low, or those of the one level selected. -/
theorem rowsHigh_le_one_of_rowSwitchedFirst {x : Wires} {es fs : List PinEvent} (hes : RowSwitchedFirst es)
    (hx : rowsHigh x.pins.row ≤ 1) (hfs : fs <+: es) : rowsHigh (pinsAfter x.pins fs).row ≤ 1 := by
  cases hes with
  | never hno => rwa [pinsAfter_row_of_isPrefix hno hfs]
  | @select l gs hno =>
    obtain rfl | ⟨fs₁, rfl, hfs₁⟩ := List.prefix_cons_iff.mp hfs
    · exact hx
    obtain rfl | ⟨fs₂, rfl, hfs₂⟩ := List.prefix_cons_iff.mp hfs₁
    · exact (by decide : rowsHigh 0b0000#4 ≤ 1)
    have shown : (pinsAfter x.pins (selectEvents l ++ fs₂)).row = rowOfLevel l :=
      pinsAfter_row_of_isPrefix (x := wiresAfter x (selectEvents l)) hno hfs₂
    exact ((congrArg rowsHigh shown).trans (rowsHigh_rowOfLevel l)).le

/-- R81: the event that sets a row comes right after the one that clears all rows. -/
theorem cleared_before_set {es fs gs : List PinEvent} {v : BitVec 4} (hes : RowSwitchedFirst es)
    (h : es = fs ++ .row v :: gs) (hv : v ≠ 0b0000#4) : ∃ hs, fs = hs ++ [.row 0b0000#4] := by
  cases hes with
  | never hno => exact absurd rfl (hno (.row v) (by simp [h]) v)
  | @select l es' hno =>
    have h : .row 0b0000#4 :: .row (rowOfLevel l) :: es' = fs ++ .row v :: gs := h
    match fs with
    | [] =>
      obtain ⟨zero, -⟩ := List.cons.inj h
      exact absurd (PinEvent.row.inj zero).symm hv
    | [e] =>
      obtain ⟨rfl, -⟩ := List.cons.inj h
      exact ⟨[], rfl⟩
    | e₁ :: e₂ :: fs' =>
      obtain ⟨-, rest⟩ := List.cons.inj h
      obtain ⟨-, rfl⟩ := List.cons.inj rest
      exact absurd rfl (hno (.row v) (by simp) v)

/-- Settles O31: every step switches the row first, by a clear and a set, or not at all. -/
theorem rowsAreClearedBeforeOneIsSet : Obligations.RowsAreClearedBeforeOneIsSet := by
  intro s t hstep hrow
  obtain ⟨es, ht, -, hes⟩ := drivesRowFirst_of_step hstep
  exact ⟨es, ht, fun fs hfs => rowsHigh_le_one_of_rowSwitchedFirst hes hrow hfs,
    fun fs v gs h hv => cleared_before_set hes h hv⟩

end Sys2Proof.Machine

/-! # The FrameBuffer over a run: what a read of a level gives (R44, R87 to R90) -/

namespace Sys2Proof.Machine

/-! ## The decoder undoes the encoder (R51, R52) -/

section

variable (op : BitVec 4) (level : Byte) (imm : Mask)

theorem levelField_packWord : levelField (packWord op level imm) = level := by
  apply BitVec.eq_of_getLsbD_eq
  intro i hi
  simp only [levelField, packWord, BitVec.getLsbD_extractLsb', BitVec.getLsbD_append]
  grind

theorem immField_packWord : immField (packWord op level imm) = imm := by
  apply BitVec.eq_of_getLsbD_eq
  intro i hi
  simp only [immField, packWord, BitVec.getLsbD_extractLsb', BitVec.getLsbD_append]
  grind

theorem valueField_packWord (value : Byte) : valueField (packWord op level (0#8 ++ value)) = value := by
  apply BitVec.eq_of_getLsbD_eq
  intro i hi
  simp only [valueField, packWord, BitVec.getLsbD_extractLsb', BitVec.getLsbD_append]
  grind

end

/-- R51: the operands of an encoded operation stand in the fields its row reads. -/
theorem operation_encode (i : Instr) : operation i.mnemonic (encode i) = i := by
  cases i with
  | writeByte v => exact congrArg Instr.writeByte (valueField_packWord ..)
  | writeFrame m => exact congrArg Instr.writeFrame (immField_packWord ..)
  | select l => exact congrArg Instr.select (levelField_packWord ..)
  | setLevel l m => exact congrArg₂ Instr.setLevel (levelField_packWord ..) (immField_packWord ..)
  | setAll m => exact congrArg Instr.setAll (immField_packWord ..)
  | getLevel l => exact congrArg Instr.getLevel (levelField_packWord ..)
  | latch | clear | tick => rfl

open Sys2Proof.Laws in
/-- R52: every operation's word selects the row of its mnemonic. -/
theorem encodesItsRow (i : Instr) : EncodesItsRow.Statement i := by
  cases i with
  | writeByte v => exact EncodesItsRow.writeByte v
  | latch => exact EncodesItsRow.latch
  | clear => exact EncodesItsRow.clear
  | writeFrame m => exact EncodesItsRow.writeFrame m
  | select l => exact EncodesItsRow.select l
  | setLevel l m => exact EncodesItsRow.setLevel l m
  | setAll m => exact EncodesItsRow.setAll m
  | getLevel l => exact EncodesItsRow.getLevel l
  | tick => exact EncodesItsRow.tick

theorem decode_encode (i : Instr) : decode (encode i) = .ok i := by
  obtain ⟨r, hr, hs⟩ := encodesItsRow i
  have named : r.mnemonic = i.mnemonic := by simpa using List.find?_some hr
  rw [decode_of_selects (List.mem_of_find?_eq_some hr) hs, named, operation_encode]

/-- R50, R58: the step that takes an operation's word executes the operation. -/
theorem step_of_presented_encode {p : Port} {i : Instr} {ws : List Word} {rest : List Agent} {s : State}
    (h : Presented p (encode i) ws rest s) : step s = exec i (wordTaken p ws rest s) := by
  rw [step_of_presented h, runWord, decode_encode]

/-! ## What SET_LEVEL and GET_LEVEL do with a level that exists -/

/-- R85: SET_LEVEL writes one cell and is answered `OK`, on either port. -/
theorem exec_setLevel_lt {level : Byte} (mask : Mask) (s : State) (h : level.toNat < 4) :
    exec (.setLevel level mask) s =
      .next (withResponse s.port 0x00000000#32 (s.writeLevel ⟨level.toNat, h⟩ mask)) := by
  rw [exec, execSetLevel, withLevel_lt _ _ h, respond_eq, writeLevel_port, responseWord_ok_zero]

/-- R86: GET_LEVEL on port S answers with the cell. -/
theorem exec_getLevel_of_S {level : Byte} {s : State} (hS : s.port = .S) (h : level.toNat < 4) :
    exec (.getLevel level) s = .next (withResponse .S (0x0000#16 ++ s.readLevel ⟨level.toNat, h⟩) s) := by
  rw [exec, execGetLevel, onSystemPort_S _ _ hS, withLevel_lt _ _ h, respond_eq, hS, responseWord_ok]

/-! ## What leaves the cells alone -/

section

variable (p : Port) (s : State) (l : Level)

@[simp] theorem passTurn_readLevel : (passTurn s).readLevel l = s.readLevel l := rfl

@[simp] theorem servePort_readLevel : (servePort p s).readLevel l = s.readLevel l := rfl

@[simp] theorem takeWord_readLevel : (takeWord p s).readLevel l = s.readLevel l :=
  readLevel_congr (takeWord_fb s p) l

@[simp] theorem wordTaken_readLevel (ws : List Word) (rest : List Agent) :
    (wordTaken p ws rest s).readLevel l = s.readLevel l := by cases p <;> rfl

@[simp] theorem wordTaken_cursor (ws : List Word) (rest : List Agent) :
    (wordTaken p ws rest s).cursor = s.cursor := by cases p <;> rfl

@[simp] theorem wordTaken_trace (ws : List Word) (rest : List Agent) :
    (wordTaken p ws rest s).trace = s.trace := by cases p <;> rfl

@[simp] theorem setPending_readLevel (xs : List PendingStore) : (s.setPending p xs).readLevel l = s.readLevel l :=
  readLevel_congr (setPending_fb s p xs) l

@[simp] theorem withEvents_readLevel (es : List PinEvent) : (withEvents es s).readLevel l = s.readLevel l := rfl

/-- R95: a tick reads the FrameBuffer and stores nothing. -/
@[simp] theorem refreshTick_readLevel : (refreshTick s).readLevel l = s.readLevel l := by
  rw [refreshTick_eq]
  rfl

end

/-! ## The latest store to a level (R44) -/

theorem latestStore_append (l : Level) (v : Mask) (xs ys : List PendingStore) :
    latestStore l v (xs ++ ys) = latestStore l (latestStore l v xs) ys := List.foldl_append

/-- Stores to other levels leave what a level held. -/
theorem latestStore_of_forall_ne {l : Level} {xs : List PendingStore} (v : Mask) (h : ∀ x ∈ xs, x.level ≠ l) :
    latestStore l v xs = v := by
  induction xs with
  | nil => rfl
  | cons x xs ih =>
    rw [latestStore, List.foldl_cons, if_neg (h x (List.mem_cons_self ..))]
    exact ih fun y hy => h y (List.mem_cons_of_mem _ hy)

/-- R39: one store is the latest to its own level. -/
theorem readLevel_writeLevel_eq_latestStore (s : State) (l k : Level) (m : Mask) :
    (s.writeLevel k m).readLevel l = latestStore l (s.readLevel l) [⟨k, m⟩] := by
  rw [readLevel_writeLevel, latestStore, List.foldl_cons, List.foldl_nil]
  exact if_congr eq_comm rfl rfl

/-! ## The stores of an operation, of a step, of a run -/

/-- R85, R87: an operation leaves in every cell the latest of the stores it makes. -/
theorem readLevel_of_execEffect {i : Instr} {s t : State} (e : ExecEffect i s t) (l : Level) :
    t.readLevel l = latestStore l (s.readLevel l) (operationStore i).toList := by
  cases e with
  | notPermitted hF h₁ h₂ =>
    cases i with
    | setLevel k m => exact absurd rfl h₁
    | setAll m => exact absurd rfl h₂
    | _ => exact withResponse_readLevel ..
  | bounds k hc hge =>
    obtain ⟨m, rfl⟩ | ⟨-, rfl | rfl⟩ := hc
    · rw [withResponse_readLevel, operationStore, levelOperand_ge hge]
      rfl
    · exact withResponse_readLevel ..
    · exact withResponse_readLevel ..
  | lines es hS hes =>
    rw [withResponse_readLevel, withEvents_readLevel]
    obtain ⟨v, rfl, -⟩ | ⟨rfl, -⟩ | ⟨rfl, -⟩ | ⟨m, rfl, -⟩ | ⟨k, h, rfl, -⟩ := hes <;> rfl
  | setLevel k m h he =>
    subst he
    rw [withResponse_readLevel, readLevel_writeLevel_eq_latestStore, operationStore, levelOperand_lt h]
    rfl
  | setAll m he =>
    subst he
    rw [setPending_readLevel, readLevel_writeLevel_eq_latestStore]
    rfl
  | getLevel k h he hS =>
    subst he
    exact withResponse_readLevel ..
  | tick he hS =>
    subst he
    rw [withResponse_readLevel, refreshTick_readLevel]
    rfl

/-- R88: a later event of a SET_ALL makes the store at the head of PENDING. -/
theorem makePendingStore_readLevel (x : PendingStore) (rest : List PendingStore) (s : State) (l : Level) :
    (makePendingStore x rest s).readLevel l = latestStore l (s.readLevel l) [x] := by
  rw [← readLevel_writeLevel_eq_latestStore s l x.level x.mask]
  cases rest with
  | nil => simp [makePendingStore, respond_eq]
  | cons y ys => simp [makePendingStore]

/-- R44: a step leaves in every cell the latest of the stores its event makes. -/
theorem readLevel_of_step {s t : State} (h : step s = .next t) (l : Level) :
    t.readLevel l = latestStore l (s.readLevel l) (eventStore (nextEvent s)).toList := by
  cases step_cases h with
  | idle he =>
    rw [he]
    rfl
  | tick he =>
    rw [he]
    exact refreshTick_readLevel ..
  | command p w i t he hd e =>
    rw [readLevel_of_execEffect e, takeWord_readLevel, servePort_readLevel, he, eventStore, hd]
  | illegal p w e he hd =>
    rw [withResponse_readLevel, takeWord_readLevel, servePort_readLevel, he, eventStore, hd]
    rfl
  | store p x rest he =>
    rw [makePendingStore_readLevel, servePort_readLevel, he]
    rfl

/-- The stores of a run are those of its first step and those of the rest. -/
theorem runStores_succ {s u : State} (k : Nat) (h : step s = .next u) :
    runStores (k + 1) s = (eventStore (nextEvent s)).toList ++ runStores k u := by
  rw [runStores, h]

/-- R44, R89: after a run every level holds the latest of the stores the run made to it. -/
theorem readLevel_of_runsTo {k : Nat} {s t : State} (h : RunsTo k s t) (l : Level) :
    t.readLevel l = latestStore l (s.readLevel l) (runStores k s) := by
  induction k generalizing s with
  | zero =>
    obtain rfl := (runsTo_zero s t).mp h
    rfl
  | succ k ih =>
    obtain ⟨u, hu, hrest⟩ := (runsTo_succ k s t).mp h
    rw [ih hrest, readLevel_of_step hu, runStores_succ k hu, latestStore_append]

/-! ## What a read of a level gives -/

/-- R86: the step that takes a GET_LEVEL on port S answers with the cell. -/
theorem step_of_presented_getLevel {level : Byte} {ws : List Word} {rest : List Agent} {s : State}
    (h : Presented .S (encode (.getLevel level)) ws rest s) (hlevel : level.toNat < 4) :
    step s = .next (withResponse .S (0x0000#16 ++ s.readLevel ⟨level.toNat, hlevel⟩) (wordTaken .S ws rest s)) := by
  rw [step_of_presented_encode h, exec_getLevel_of_S (wordTaken_port ..) hlevel, wordTaken_readLevel]

/-- R95: the step that takes a tick draws the cell the cursor names. -/
theorem step_of_timer_trace {rest : List Agent} {s : State} (h : s.order = .timer :: rest) :
    ∃ u, step s = .next u ∧
      u.trace = s.trace ++ tickEvents (cursorLevel s.cursor) (s.readLevel (cursorLevel s.cursor)) :=
  ⟨_, step_eq s _ (nextEvent_timer s rest h), refreshTick_trace (passTurn s)⟩

/-- R95, R99: so does the step that takes a TICK command on port S. -/
theorem step_of_presented_tick_trace {ws : List Word} {rest : List Agent} {s : State}
    (h : Presented .S (encode .tick) ws rest s) :
    ∃ u, step s = .next u ∧
      u.trace = s.trace ++ tickEvents (cursorLevel s.cursor) (s.readLevel (cursorLevel s.cursor)) := by
  refine ⟨_, (step_of_presented_encode h).trans (exec_tick_of_S (wordTaken_port ..)), ?_⟩
  rw [withResponse_trace, refreshTick_trace, wordTaken_trace, wordTaken_cursor, wordTaken_readLevel]

/-- R53: the operand that is a level's number is below 4. -/
theorem toNat_ofNat_level (l : Level) : (BitVec.ofNat 8 l.val).toNat = l.val := by
  revert l
  decide

/-- Settles O38: by induction over the run each level holds its latest store, and each read gives what its level holds. -/
theorem readsReturnTheLatestStore : Obligations.ReadsReturnTheLatestStore := by
  intro k s t l hrun
  have held := readLevel_of_runsTo hrun l
  refine ⟨held, fun ws rest h => ?getLevel, fun hcursor => ⟨fun rest h => ?tickInput, fun ws rest h => ?tickCommand⟩⟩
  case getLevel =>
    have named : (BitVec.ofNat 8 l.val).toNat < 4 := (toNat_ofNat_level l).symm ▸ l.isLt
    have same : (⟨(BitVec.ofNat 8 l.val).toNat, named⟩ : Level) = l := Fin.ext (toNat_ofNat_level l)
    rw [step_of_presented_getLevel h named, same, held]
  case tickInput =>
    rw [← held, ← hcursor]
    exact step_of_timer_trace h
  case tickCommand =>
    rw [← held, ← hcursor]
    exact step_of_presented_tick_trace h

/-- Settles O39: the store leaves the mask in its cell, and a run with no store to the level leaves it there. -/
theorem storedLevelsReadBack : Obligations.StoredLevelsReadBack := by
  intro level mask s hlevel
  refine ⟨_, exec_setLevel_lt mask s hlevel, responses_of_answered _ (writeLevel_portState ..), fun k t hrun hno => ?_⟩
  have held : t.readLevel ⟨level.toNat, hlevel⟩ = mask := by
    rw [readLevel_of_runsTo hrun, latestStore_of_forall_ne _ fun x hx => mt (congrArg Fin.val) (hno x hx),
      withResponse_readLevel, readLevel_writeLevel_same]
  refine ⟨?_, fun ws rest h => ?_⟩
  · rw [exec_getLevel_of_S rfl hlevel, readLevel_congr (s := t) (t := { t with port := .S }) rfl, held]
  · rw [step_of_presented_getLevel h hlevel, held]

/-! ## SET_ALL with four turns (R87, R88) -/

/-- R88: the next turn of a port that owes a store makes it. -/
theorem step_of_owed {p : Port} {x : PendingStore} {more : List PendingStore} {rest : List Agent} {s : State}
    (hturn : s.order = .port p :: rest) (howed : (s.portState p).pending = x :: more) :
    step s = .next (storeMade p x more rest s) := by
  have made : makePendingStore x more (servePort p s) = storeMade p x more rest s := by
    cases more <;> cases p <;>
      simp [makePendingStore, respond_eq, withResponse, responseWord_ok_zero, servePort, passTurn, hturn, storeMade,
        State.writeLevel, State.setPending, State.portState]
  rw [step_eq s _ ((nextEvent_port s p rest hturn).trans (portEvent_store s p x more howed)), runEvent, made]

section

variable (p : Port) (x : PendingStore) (more : List PendingStore) (rest : List Agent) (s : State)

theorem storeMade_order : (storeMade p x more rest s).order = rest := by cases p <;> rfl

theorem storeMade_pending : ((storeMade p x more rest s).portState p).pending = more := by cases p <;> rfl

end

/-- R87: stores to the four levels leave nothing of the old FrameBuffer. -/
theorem set_all_levels (fb : Vector Mask 4) (m : Mask) :
    (((fb.set 0 m).set 1 m).set 2 m).set 3 m = #v[m, m, m, m] := by
  apply fb_ext
  intro l
  fin_cases l <;> simp

/-- R88: the state in which port `p` has decoded a SET_ALL: its first store made, the other three owed. -/
def setAllBegun (p : Port) (mask : Mask) (ws : List Word) (rest : List Agent) (s : State) : State :=
  ((wordTaken p ws rest s).writeLevel 0 mask).setPending p (setAllRemainder mask)

/-- R88: the step that takes a SET_ALL begins it. -/
theorem step_of_presented_setAll {p : Port} {mask : Mask} {ws : List Word} {rest : List Agent} {s : State}
    (h : Presented p (encode (.setAll mask)) ws rest s) : step s = .next (setAllBegun p mask ws rest s) := by
  rw [step_of_presented_encode h, exec, execSetAll, wordTaken_port, setAllBegun]

theorem setAllBegun_order (p : Port) (mask : Mask) (ws : List Word) (rest : List Agent) (s : State) :
    (setAllBegun p mask ws rest s).order = rest := by cases p <;> rfl

theorem setAllBegun_pending (p : Port) (mask : Mask) (ws : List Word) (rest : List Agent) (s : State) :
    ((setAllBegun p mask ws rest s).portState p).pending = [⟨1, mask⟩, ⟨2, mask⟩, ⟨3, mask⟩] := by cases p <;> rfl

/-- R87, R88: the three owed stores, made in order, leave the mask in every cell, nothing owed, and the one response. -/
theorem owed_stores_of_setAllBegun (p : Port) (mask : Mask) (ws : List Word) (r₀ r₁ r₂ rest : List Agent) (s : State)
    (howed : (s.portState p).pending = []) :
    storeMade p ⟨3, mask⟩ [] rest
        (storeMade p ⟨2, mask⟩ [⟨3, mask⟩] r₂ (storeMade p ⟨1, mask⟩ [⟨2, mask⟩, ⟨3, mask⟩] r₁ (setAllBegun p mask ws r₀ s))) =
      withResponse p 0x00000000#32 { wordTaken p ws rest s with fb := #v[mask, mask, mask, mask] } := by
  rw [← set_all_levels s.fb mask]
  cases p <;>
    simp_all [storeMade, setAllBegun, withResponse, wordTaken, State.writeLevel, State.setPending, State.portState]

/-- Settles O36: the four turns make the four stores, and four SET_LEVELs make the same four writes. -/
theorem setAllEqualsFourSetLevels : Obligations.SetAllEqualsFourSetLevels := by
  intro p mask ws rest s h
  have begun := step_of_presented_setAll h
  have run : RunsTo 4 s _ :=
    (runsTo_succ ..).mpr ⟨_, begun, (runsTo_succ ..).mpr
      ⟨_, step_of_owed (setAllBegun_order ..) (setAllBegun_pending ..), (runsTo_succ ..).mpr
        ⟨_, step_of_owed (storeMade_order ..) (storeMade_pending ..), (runsTo_succ ..).mpr
          ⟨_, step_of_owed (storeMade_order ..) (storeMade_pending ..), (runsTo_zero ..).mpr rfl⟩⟩⟩⟩
  rw [owed_stores_of_setAllBegun p mask ws _ _ _ rest s h.nothingOwed] at run
  refine ⟨_, run, rfl, _, _, _, _, exec_setLevel_lt mask _ (by decide), exec_setLevel_lt mask _ (by decide),
    exec_setLevel_lt mask _ (by decide), exec_setLevel_lt mask _ (by decide), ?_⟩
  simp only [withResponse_fb, writeLevel_fb]
  exact (set_all_levels s.fb mask).symm

end Sys2Proof.Machine

/-! # The cursor over a run (R95, R97) and the bytes a tick emits (R100) -/

namespace Sys2Proof.Machine

/-! ## The word of TICK (R52) -/

/-- R52: an operation is decoded from a word that selects a row with its mnemonic. -/
theorem selects_of_decode {w : Word} {i : Instr} (h : decode w = .ok i) :
    ∃ r ∈ opcodeRows, r.selects w = true ∧ r.mnemonic = i.mnemonic := by
  by_cases selected : ∃ r ∈ opcodeRows, r.selects w = true
  · obtain ⟨r, hr, hs⟩ := selected
    cases (decode_of_selects hr hs).symm.trans h
    exact ⟨r, hr, hs, (operation_mnemonic r.mnemonic w).symm⟩
  · have none_selected : ∀ r ∈ opcodeRows, r.selects w = false := by simpa using selected
    cases (decode_of_no_row none_selected).symm.trans h

/-- R52: the row of TICK fixes every bit of the word. -/
theorem tick_row_fixed : ∀ r ∈ opcodeRows, r.mnemonic = .TICK → r = ⟨.TICK, encode .tick, 0xFFFFFFFF#32⟩ := by
  decide

/-- R52: one word alone decodes to TICK. -/
theorem decode_eq_tick_iff (w : Word) : decode w = .ok .tick ↔ w = encode .tick := by
  constructor
  · intro h
    obtain ⟨r, hr, hs, hm⟩ := selects_of_decode h
    rw [tick_row_fixed r hr hm, OpcodeRow.selects, beq_iff_eq] at hs
    exact BitVec.and_allOnes.symm.trans hs
  · rintro rfl
    exact decode_encode .tick

/-- R99: a command is a tick where it is one that decodes to TICK, on port S. -/
theorem eventTicks_command (p : Port) (w : Word) :
    eventTicks (.command p w) = true ↔ p = .S ∧ decode w = .ok .tick := by
  rw [decode_eq_tick_iff, eventTicks, Bool.and_eq_true, decide_eq_true_iff, decide_eq_true_iff]

/-! ## What moves the cursor -/

@[simp] theorem refreshTick_cursor (s : State) : (refreshTick s).cursor = nextCursor s.cursor := by
  rw [refreshTick_eq, nextCursor]

@[simp] theorem makePendingStore_cursor (x : PendingStore) (rest : List PendingStore) (s : State) :
    (makePendingStore x rest s).cursor = s.cursor := by
  cases rest <;> simp [makePendingStore]

/-- R97: of the operations TICK alone, where it is permitted, moves the cursor. -/
theorem cursor_of_execEffect {i : Instr} {s t : State} (e : ExecEffect i s t) :
    t.cursor = if s.port = .S ∧ i = .tick then nextCursor s.cursor else s.cursor := by
  cases e with
  | tick hi hS => rw [if_pos ⟨hS, hi⟩, withResponse_cursor, refreshTick_cursor]
  | notPermitted hF => simp [hF]
  | bounds l hi => obtain ⟨m, rfl⟩ | ⟨-, rfl | rfl⟩ := hi <;> simp
  | lines es hS hi => obtain ⟨v, rfl, -⟩ | ⟨rfl, -⟩ | ⟨rfl, -⟩ | ⟨m, rfl, -⟩ | ⟨l, h, rfl, -⟩ := hi <;> simp
  | setLevel l m h hi | setAll m hi | getLevel l h hi => simp [hi]

/-- R97: a tick moves the cursor by one, and no other event moves it. -/
theorem cursor_of_step {s t : State} (h : step s = .next t) :
    t.cursor = if eventTicks (nextEvent s) = true then nextCursor s.cursor else s.cursor := by
  cases step_cases h with
  | idle he => simp [he, eventTicks]
  | tick he => simp [he, eventTicks]
  | command p w i t he hd e =>
    have ticks : eventTicks (.command p w) = true ↔ p = .S ∧ i = .tick := by
      rw [eventTicks_command, hd, Except.ok.injEq]
    rw [cursor_of_execEffect e, takeWord_servePort_port, takeWord_servePort_cursor, he]
    exact if_congr ticks.symm rfl rfl
  | illegal p w e he hd =>
    have no_tick : ¬ eventTicks (.command p w) = true := by simp [eventTicks_command, hd]
    rw [he, if_neg no_tick, withResponse_cursor, takeWord_servePort_cursor]
  | store p x rest he => simp [he, eventTicks]

/-- R102: the cursor counts modulo 4. -/
theorem toNat_nextCursor (c : BitVec 2) : (nextCursor c).toNat = (c.toNat + 1) % 4 := BitVec.toNat_add c 1#2

/-- The ticks of a run are its first step, where that is one, and those of the rest. -/
theorem runTicks_succ {s u : State} (k : Nat) (h : step s = .next u) :
    runTicks (k + 1) s = (if eventTicks (nextEvent s) then 1 else 0) + runTicks k u := by
  rw [runTicks, h]

/-- R97: a run moves the cursor by its number of ticks, modulo 4. -/
theorem cursor_of_runsTo {k : Nat} {s t : State} (h : RunsTo k s t) :
    t.cursor.toNat = (s.cursor.toNat + runTicks k s) % 4 := by
  induction k generalizing s with
  | zero =>
    obtain rfl := (runsTo_zero s t).mp h
    exact (Nat.mod_eq_of_lt t.cursor.isLt).symm
  | succ k ih =>
    obtain ⟨u, hu, hrest⟩ := (runsTo_succ k s t).mp h
    rw [ih hrest, cursor_of_step hu, runTicks_succ k hu]
    split
    · rw [toNat_nextCursor, Nat.mod_add_mod, Nat.add_assoc]
    · rw [Nat.zero_add]

/-! ## What a tick draws -/

/-- R95, R99: a tick, on the tick input or as a command, draws the level the cursor names. -/
theorem step_of_eventTicks {s : State} (h : eventTicks (nextEvent s) = true) :
    ∃ u, step s = .next u ∧
      u.trace = s.trace ++ tickEvents (cursorLevel s.cursor) (s.readLevel (cursorLevel s.cursor)) := by
  obtain ⟨onCommand, -, onTick⟩ := nextEvent_inv (s := s) rfl
  cases he : nextEvent s with
  | idle | store => simp [he, eventTicks] at h
  | tick =>
    obtain ⟨rest, horder⟩ := onTick he
    exact step_of_timer_trace horder
  | command p w =>
    rw [he, eventTicks_command, decode_eq_tick_iff] at h
    obtain ⟨rfl, rfl⟩ := h
    obtain ⟨⟨rest, hturn⟩, howed, ws, hword⟩ := onCommand _ _ he
    exact step_of_presented_tick_trace ⟨hturn, howed, hword⟩

/-- Settles O49: by induction over the run the cursor counts its ticks, and a tick draws the level the cursor names. -/
theorem ticksAloneMoveTheCursor : Obligations.TicksAloneMoveTheCursor := by
  intro k s t hrun
  have counted := cursor_of_runsTo hrun
  refine ⟨counted, fun hzero htick => ?_⟩
  obtain ⟨u, hu, htrace⟩ := step_of_eventTicks htick
  rw [hzero, BitVec.toNat_zero, Nat.zero_add] at counted
  exact ⟨u, cursorLevel t.cursor, hu, counted, htrace⟩

/-! ## The bytes a tick emits (R60, R100) -/

/-- R60: a tick emits the bits of its mask's low byte, then those of its high byte. -/
theorem emittedBits_tickEvents (d : Bool) (l : Level) (m : Mask) :
    emittedBits d (tickEvents l m) = byteBits (lowByte m) ++ byteBits (highByte m) := by
  rw [tickEvents, frameEvents_eq_shiftEvents, emittedBits_selectEvents_append]
  rfl

/-- R60: the eight bits of a byte, bit 0 first, make the byte. -/
theorem byteOfBits_getElem (v : Byte) : byteOfBits v[0] v[1] v[2] v[3] v[4] v[5] v[6] v[7] = v := by
  revert v
  decide

/-- R60: the bits of a byte, grouped, are the byte. -/
theorem bytesOfBits_byteBits_append (v : Byte) (bs : List Bool) :
    bytesOfBits (byteBits v ++ bs) = v :: bytesOfBits bs :=
  congrArg (· :: bytesOfBits bs) (byteOfBits_getElem v)

theorem emittedBytes_tickEvents (d : Bool) (l : Level) (m : Mask) :
    emittedBytes d (tickEvents l m) = [lowByte m, highByte m] := by
  rw [emittedBytes, emittedBits_tickEvents, bytesOfBits_byteBits_append]
  exact congrArg (lowByte m :: ·) (bytesOfBits_byteBits_append (highByte m) [])

/-- R102: `m & 0xFF`. -/
theorem lowByte_eq (m : Mask) : lowByte m = (m &&& 0x00FF#16).setWidth 8 := by
  rw [lowByte, BitVec.setWidth_and]
  exact (BitVec.and_allOnes (x := m.setWidth 8)).symm

/-- R102: `m >> 8`. -/
theorem highByte_eq (m : Mask) : highByte m = (m >>> 8).setWidth 8 := rfl

/-- Settles O47: the tick draws the stored mask, whose bytes are those its events emit. -/
theorem tickEmitsLowByteThenHighByte : Obligations.TickEmitsLowByteThenHighByte := by
  intro level mask s hlevel
  refine ⟨_, exec_setLevel_lt mask s hlevel, fun s₂ rest hread hcursor horder => ?_⟩
  obtain ⟨t, ht, htrace⟩ := step_of_timer_trace horder
  have drawn : cursorLevel s₂.cursor = ⟨level.toNat, hlevel⟩ := Fin.ext hcursor
  rw [drawn, hread, withResponse_readLevel, readLevel_writeLevel_same] at htrace
  refine ⟨t, _, ht, htrace, ?_⟩
  rw [emittedBytes_tickEvents, lowByte_eq, highByte_eq]

end Sys2Proof.Machine

/-! # The errors of a well-formed command: NOT_PERMITTED and BOUNDS (R111, R113) -/

namespace Sys2Proof.Machine

/-! ## NOT_PERMITTED -/

/-- R121: what is not permitted is an operation of port S that arrives on port F. -/
theorem not_permitted_iff (p : Port) (i : Instr) :
    ¬ Permitted p i ↔ p = .F ∧ i.mnemonic ∉ [.SET_LEVEL, .SET_ALL] := by
  cases p <;> simp [Permitted]

/-- Settles O14: the operations other than SET_LEVEL and SET_ALL are those port F may not issue. -/
theorem portFMayOnlyStore : Obligations.PortFMayOnlyStore := by
  intro i s hF hlevel hall
  exact exec_of_not_permitted hF (by simp [hlevel, hall])

/-! ## BOUNDS -/

/-- R111: the operation, on the port `p`, is one that ends in `BOUNDS`. -/
def BoundsCause (p : Port) (i : Instr) : Prop :=
  (∃ (level : Byte) (mask : Mask), i = .setLevel level mask ∧ 4 ≤ level.toNat) ∨
  (p = .S ∧ ∃ level : Byte, (i = .select level ∨ i = .getLevel level) ∧ 4 ≤ level.toNat)

/-- R58 steps 2 and 3: `BOUNDS` is for a permitted operation with a level operand of 4 or more. -/
theorem boundsCause_iff (p : Port) (i : Instr) :
    BoundsCause p i ↔ Permitted p i ∧ ∃ l, levelOf i = some l ∧ 4 ≤ l.toNat := by
  cases i with
  | select l | getLevel l | setLevel l m => simp [BoundsCause, Permitted, levelOf, Instr.mnemonic]
  | _ => simp [BoundsCause, levelOf]

/-- R111: an operation that ends in `BOUNDS` does nothing but answer so. -/
theorem exec_of_boundsCause {i : Instr} {s : State} (h : BoundsCause s.port i) :
    exec i s = .next (withResponse s.port 0x01000000#32 s) := by
  obtain ⟨hperm, l, hl, hge⟩ := (boundsCause_iff s.port i).mp h
  exact exec_of_level_ge hperm hl hge

/-- R57: an `OK` response, whatever its data, is not the `BOUNDS` response. -/
theorem okWord_ne_boundsWord (data : Mask) : 0x0000#16 ++ data ≠ 0x01000000#32 := by
  intro h
  have status : (0x0000#16 ++ data).extractLsb' 16 16 = 0x0000#16 := BitVec.extractLsb'_append_eq_left
  rw [h] at status
  exact absurd status (by decide)

/-- R52: one operation alone has the mnemonic SET_ALL. -/
theorem eq_setAll_of_mnemonic {i : Instr} (h : i.mnemonic = .SET_ALL) : ∃ m, i = .setAll m := by
  cases i with
  | setAll m => exact ⟨m, rfl⟩
  | _ => cases h

/-- R58: an operation without the cause is not answered `BOUNDS`: it is turned away on port F, or it is a SET_ALL and not answered yet,
or it is answered `OK`. -/
theorem exec_of_not_boundsCause {i : Instr} {s : State} (h : ¬ BoundsCause s.port i) :
    ∃ t, exec i s = .next t ∧
      (t.portState s.port).responses ≠ (s.portState s.port).responses ++ [0x01000000#32] := by
  by_cases hperm : Permitted s.port i
  · by_cases hall : i.mnemonic = .SET_ALL
    · obtain ⟨m, rfl⟩ := eq_setAll_of_mnemonic hall
      obtain ⟨t, ht, hresp, -⟩ := exec_setAll_portState m s
      exact ⟨t, ht, by simp [hresp]⟩
    · have below : ∀ l, levelOf i = some l → l.toNat < 4 := fun l hl =>
        Nat.not_le.mp fun hge => h ((boundsCause_iff s.port i).mpr ⟨hperm, l, hl, hge⟩)
      obtain ⟨t, ht, data, hresp, -⟩ := exec_answers_ok hperm below hall
      refine ⟨t, ht, ?_⟩
      rw [hresp]
      simpa using okWord_ne_boundsWord data
  · obtain ⟨hF, hi⟩ := (not_permitted_iff s.port i).mp hperm
    refine ⟨_, exec_of_not_permitted hF hi, ?_⟩
    rw [hF, responses_of_answered _ rfl]
    simp

/-- Settles O15: with the cause the answer is `BOUNDS` and nothing else, and without it the answer is another or none. -/
theorem boundsErrorsAreExactlyTheseThree : Obligations.BoundsErrorsAreExactlyTheseThree := by
  intro i s
  by_cases h : BoundsCause s.port i
  · exact ⟨_, exec_of_boundsCause h, iff_of_true (responses_of_answered _ rfl) h, fun _ => rfl⟩
  · obtain ⟨t, ht, hne⟩ := exec_of_not_boundsCause h
    exact ⟨t, ht, iff_of_false hne h, fun hc => absurd hc h⟩

end Sys2Proof.Machine

/-! # The decoder and the encoder are inverse, and listings name operations (R51 to R59, R63) -/

namespace Sys2Proof.Machine

/-- Settles O2: by the row of each operation's word and the fields that row reads. -/
theorem everyOperationDecodesFromItsEncoding : Obligations.EveryOperationDecodesFromItsEncoding := decode_encode

/-! ## A word is rebuilt from the fields it decodes to (R55) -/

/-- R51: a word whose bits 27:24 are zero is packed from its other fields. -/
theorem eq_packWord_of_zField {w : Word} (hz : zField w = 0#4) :
    w = packWord (opField w) (levelField w) (immField w) := by
  rw [packWord, ← hz]
  exact word_eq_append_fields w

/-- R54: the byte operand is the low half of the mask operand. -/
theorem immField_eq_append (w : Word) : immField w = immHighField w ++ valueField w := by
  apply BitVec.eq_of_getLsbD_eq
  intro i hi
  simp only [immField, immHighField, valueField, BitVec.getLsbD_append, BitVec.getLsbD_extractLsb']
  grind

/-- R55: a row fixes every field of a word that its operation does not read. -/
theorem encode_operation {r : OpcodeRow} {w : Word} (hr : r ∈ opcodeRows) (hs : r.selects w = true) :
    encode (operation r.mnemonic w) = w := by
  obtain ⟨hop, hbroken⟩ := (selects_iff hr w).mp hs
  simp only [MustBeZeroBroken, not_or, not_and, ne_eq, not_not] at hbroken
  obtain ⟨hz, hlevel, himm, hhigh⟩ := hbroken
  have packed := eq_packWord_of_zField hz
  have halves := immField_eq_append w
  rw [hop] at packed hlevel himm hhigh
  simp only [opcodeRows, List.mem_cons, List.not_mem_nil, or_false] at hr
  conv_rhs => rw [packed]
  -- The rows in the table's order.
  obtain rfl | rfl | rfl | rfl | rfl | rfl | rfl | rfl | rfl := hr
  · rw [hlevel (by decide), halves, hhigh rfl]; rfl
  · rw [hlevel (by decide), himm (by decide)]; rfl
  · rw [hlevel (by decide), himm (by decide)]; rfl
  · rw [hlevel (by decide)]; rfl
  · rw [himm (by decide)]; rfl
  · rfl
  · rw [hlevel (by decide)]; rfl
  · rw [himm (by decide)]; rfl
  · rw [hlevel (by decide), himm (by decide)]; rfl

/-- Settles O3: the row the word selects fixes every bit that the operation does not carry. -/
theorem everyDecodedWordIsAnEncoding : Obligations.EveryDecodedWordIsAnEncoding := by
  intro w i h
  obtain ⟨r, hr, hs, -⟩ := selects_of_decode h
  cases (decode_of_selects hr hs).symm.trans h
  exact encode_operation hr hs

/-- Settles O4: the rows differ in the operation code. -/
theorem noWordSelectsTwoRows : Obligations.NoWordSelectsTwoRows :=
  fun _ _ h₁ _ h₂ s₁ s₂ => row_unique h₁ h₂ s₁ s₂

/-- Settles O1: the legal words are those the encoder writes; the others break a must-be-zero field or have a reserved code. -/
theorem specWordsDecodeAsListed : Obligations.SpecWordsDecodeAsListed :=
  ⟨decode_encode (.writeByte 0xEF#8), decode_encode .latch, decode_encode .clear, decode_encode (.writeFrame 0xBEEF#16),
    decode_encode (.select 2#8), decode_encode (.select 255#8), decode_encode (.setLevel 2#8 0xBEEF#16),
    decode_encode (.setAll 0xFFFF#16), decode_encode (.getLevel 2#8), decode_encode .tick,
    decode_of_mustBeZeroBroken (by unfold OpReserved; decide) (.inr (.inr (.inr (by decide)))),
    decode_of_mustBeZeroBroken (by unfold OpReserved; decide) (.inl (by decide)), decode_of_reserved (.inr (by decide))⟩

/-! ## Listings (R63) -/

/-- R63: an operand of its own width is in range. -/
theorem fitsByte_toNat (v : Byte) : fitsByte v.toNat = true := decide_eq_true v.isLt

theorem fitsMask_toNat (m : Mask) : fitsMask m.toNat = true := decide_eq_true m.isLt

theorem listing_wellFormed (i : Instr) : i.listing.wellFormed = true := by
  cases i with
  | writeByte v | select v | getLevel v => exact fitsByte_toNat v
  | writeFrame m | setAll m => exact fitsMask_toNat m
  | setLevel l m => exact Bool.and_eq_true_iff.mpr ⟨fitsByte_toNat l, fitsMask_toNat m⟩
  | latch | clear | tick => rfl

/-- R63: an operation's listing names the operation. -/
theorem assemble_listing (i : Instr) : i.listing.assemble = some i := by
  rw [Listing.assemble, if_pos (listing_wellFormed i)]
  cases i <;> simp [Instr.listing]

theorem toNat_ofNat_of_fitsByte {n : Nat} (h : fitsByte n = true) : (BitVec.ofNat 8 n).toNat = n := by
  rw [BitVec.toNat_ofNat]
  exact Nat.mod_eq_of_lt (of_decide_eq_true h)

theorem toNat_ofNat_of_fitsMask {n : Nat} (h : fitsMask n = true) : (BitVec.ofNat 16 n).toNat = n := by
  rw [BitVec.toNat_ofNat]
  exact Nat.mod_eq_of_lt (of_decide_eq_true h)

/-- R63: a well-formed listing is that of an operation: operands in range fit their widths. -/
theorem exists_listing_of_wellFormed {x : Listing} (h : x.wellFormed = true) : ∃ i : Instr, i.listing = x := by
  obtain ⟨m, operands⟩ := x
  cases m with
  | WRITE_BYTE =>
    match operands, h with
    | [v], h => exact ⟨.writeByte (BitVec.ofNat 8 v), by rw [Instr.listing, toNat_ofNat_of_fitsByte h]⟩
  | WRITE_FRAME =>
    match operands, h with
    | [m], h => exact ⟨.writeFrame (BitVec.ofNat 16 m), by rw [Instr.listing, toNat_ofNat_of_fitsMask h]⟩
  | SELECT =>
    match operands, h with
    | [l], h => exact ⟨.select (BitVec.ofNat 8 l), by rw [Instr.listing, toNat_ofNat_of_fitsByte h]⟩
  | SET_LEVEL =>
    match operands, h with
    | [l, m], h =>
      obtain ⟨hl, hm⟩ := Bool.and_eq_true_iff.mp h
      exact ⟨.setLevel (BitVec.ofNat 8 l) (BitVec.ofNat 16 m), by
        rw [Instr.listing, toNat_ofNat_of_fitsByte hl, toNat_ofNat_of_fitsMask hm]⟩
  | SET_ALL =>
    match operands, h with
    | [m], h => exact ⟨.setAll (BitVec.ofNat 16 m), by rw [Instr.listing, toNat_ofNat_of_fitsMask h]⟩
  | GET_LEVEL =>
    match operands, h with
    | [l], h => exact ⟨.getLevel (BitVec.ofNat 8 l), by rw [Instr.listing, toNat_ofNat_of_fitsByte h]⟩
  | LATCH => exact ⟨.latch, congrArg _ (List.isEmpty_iff.mp h).symm⟩
  | CLEAR => exact ⟨.clear, congrArg _ (List.isEmpty_iff.mp h).symm⟩
  | TICK => exact ⟨.tick, congrArg _ (List.isEmpty_iff.mp h).symm⟩

/-- Settles O6: the well-formed listings are those of the operations, and each is assembled to its own operation. -/
theorem listingsNameOperations : Obligations.ListingsNameOperations := by
  refine ⟨fun i => ⟨listing_wellFormed i, assemble_listing i⟩, fun x hx => ?_, fun x hx => ?_⟩
  · obtain ⟨i, rfl⟩ := exists_listing_of_wellFormed hx
    exact ⟨i, assemble_listing i, rfl⟩
  · rw [Listing.assemble, if_neg (by simp [hx])]

end Sys2Proof.Machine

/-! # What a step does to the lines, TRACE and PENDING: the invariant and its owners (R16 to R19, R24, R25) -/

namespace Sys2Proof.Machine

/-! ## The pin events of an operation -/

/-- The events are those the rule of the mnemonic's operation lists (R70 to R73, R80, R95). -/
inductive DrivenBy : Mnemonic → List PinEvent → Prop
  | writeByte (v : Byte) : DrivenBy .WRITE_BYTE (byteEvents v)
  | latch : DrivenBy .LATCH latchEvents
  | clear : DrivenBy .CLEAR clearEvents
  | writeFrame (m : Mask) : DrivenBy .WRITE_FRAME (frameEvents m)
  | select (l : Level) : DrivenBy .SELECT (selectEvents l)
  | tick (l : Level) (m : Mask) : DrivenBy .TICK (tickEvents l m)

/-- R24's owners of each line: the operations whose rules list its events. -/
def driversOf : PinEvent → List Mnemonic
  | .data _ => [.TICK, .WRITE_BYTE, .WRITE_FRAME]
  | .clk _ => [.TICK, .WRITE_BYTE, .WRITE_FRAME]
  | .latch _ => [.TICK, .LATCH, .CLEAR, .WRITE_FRAME]
  | .clrn _ => [.CLEAR]
  | .row _ => [.TICK, .SELECT]

theorem mem_driversOf {m : Mnemonic} {es : List PinEvent} (h : DrivenBy m es) : ∀ e ∈ es, m ∈ driversOf e := by
  cases h with
  | writeByte v => simp [byteEvents, clockedBit, driversOf]
  | latch => simp [latchEvents, driversOf]
  | clear => simp [clearEvents, driversOf]
  | writeFrame m => simp [frameEvents, clockedBit, driversOf]
  | select l => simp [selectEvents, driversOf]
  | tick l m => simp [tickEvents, selectEvents, frameEvents, clockedBit, driversOf]

/-- R25 (d): every operation returns the clock, the latch and the clear line to idle. -/
theorem linesIdle_of_drivenBy {m : Mnemonic} {es : List PinEvent} {x : Wires} (h : DrivenBy m es)
    (hx : LinesIdle x.pins) : LinesIdle (wiresAfter x es).pins := by
  obtain ⟨hk, hl, hn⟩ := hx
  rw [wiresAfter_pins]
  cases h with
  | writeByte v => exact ⟨rfl, hl, hn⟩
  | latch => exact ⟨hk, rfl, hn⟩
  | clear => exact ⟨hk, rfl, rfl⟩
  | writeFrame m => exact ⟨rfl, rfl, hn⟩
  | select l => exact ⟨hk, hl, hn⟩
  | tick l m => exact ⟨rfl, rfl, hn⟩

/-! ## What an operation and a step drive -/

/-- What led from `s` to `t` did to the lines, the chain and TRACE no more than drive the events `es`. -/
structure Drives (s t : State) (es : List PinEvent) : Prop where
  trace : t.trace = s.trace ++ es
  wires : t.wires = wiresAfter s.wires es

theorem drives_nil {s t : State} (ht : t.trace = s.trace) (hw : t.wires = s.wires) : Drives s t [] :=
  ⟨by rw [ht, List.append_nil], hw⟩

theorem drives_refreshTick (s : State) :
    Drives s (refreshTick s) (tickEvents (cursorLevel s.cursor) (s.readLevel (cursorLevel s.cursor))) :=
  ⟨refreshTick_trace s, by rw [refreshTick_eq, withEvents_wires]⟩

/-- An operation drives the events of its own rule, on port S, or none. -/
theorem drives_of_execEffect {i : Instr} {s t : State} (e : ExecEffect i s t) :
    ∃ es, Drives s t es ∧ (es = [] ∨ s.port = .S ∧ DrivenBy i.mnemonic es) := by
  cases e with
  | lines es hS hes =>
    refine ⟨es, ⟨by rw [withResponse_trace, withEvents_trace], by rw [withResponse_wires, withEvents_wires]⟩,
      .inr ⟨hS, ?_⟩⟩
    obtain ⟨v, rfl, rfl⟩ | ⟨rfl, rfl⟩ | ⟨rfl, rfl⟩ | ⟨m, rfl, rfl⟩ | ⟨l, h, rfl, rfl⟩ := hes
    · exact .writeByte v
    · exact .latch
    · exact .clear
    · exact .writeFrame m
    · exact .select ⟨l.toNat, h⟩
  | tick he hS =>
    subst he
    obtain ⟨ht, hw⟩ := drives_refreshTick s
    exact ⟨_, ⟨by rw [withResponse_trace, ht], by rw [withResponse_wires, hw]⟩, .inr ⟨hS, .tick _ _⟩⟩
  | notPermitted | bounds | setLevel | setAll | getLevel => exact ⟨[], drives_nil (by simp) (by simp), .inl rfl⟩

/-- R88: a later store of a SET_ALL drives nothing. -/
theorem drives_makePendingStore (x : PendingStore) (rest : List PendingStore) (s : State) :
    Drives s (makePendingStore x rest s) [] := by
  cases rest <;> exact drives_nil (by simp [makePendingStore]) (by simp [makePendingStore])

/-- The next event is one that drives the events of the mnemonic's operation: a tick of either kind, or the command on port S. -/
def MayDrive (s : State) (m : Mnemonic) : Prop :=
  (m = .TICK ∧ eventTicks (nextEvent s) = true) ∨ (m ≠ .TICK ∧ RunsOnPortS s [m])

/-- R52: one operation alone has the mnemonic TICK. -/
theorem eq_tick_of_mnemonic {i : Instr} (h : i.mnemonic = .TICK) : i = .tick := by
  cases i with
  | tick => rfl
  | _ => cases h

/-- R99: a command of port S drives as its mnemonic says. -/
theorem mayDrive_of_command {s : State} {w : Word} {i : Instr} (he : nextEvent s = .command .S w)
    (hd : decode w = .ok i) : MayDrive s i.mnemonic := by
  by_cases hm : i.mnemonic = .TICK
  · obtain rfl := eq_tick_of_mnemonic hm
    exact .inl ⟨hm, by rw [he, eventTicks_command]; exact ⟨rfl, hd⟩⟩
  · exact .inr ⟨hm, w, i, he, hd, List.mem_singleton_self _⟩

/-- A step drives the events of its event's operation, or none. -/
theorem drives_of_step {s t : State} (h : step s = .next t) :
    ∃ es, Drives s t es ∧ (es = [] ∨ ∃ m, DrivenBy m es ∧ MayDrive s m) := by
  cases step_cases h with
  | idle he => exact ⟨[], drives_nil (passTurn_trace s) (passTurn_wires s), .inl rfl⟩
  | tick he =>
    obtain ⟨ht, hw⟩ := drives_refreshTick (passTurn s)
    exact ⟨_, ⟨ht, hw⟩, .inr ⟨.TICK, .tick _ _, .inl ⟨rfl, by rw [he]; rfl⟩⟩⟩
  | command p w i t he hd e =>
    obtain ⟨es, ⟨ht, hw⟩, hes⟩ := drives_of_execEffect e
    rw [takeWord_servePort_trace] at ht
    rw [takeWord_servePort_wires] at hw
    rw [takeWord_servePort_port] at hes
    exact ⟨es, ⟨ht, hw⟩, hes.imp_right fun ⟨hS, hes⟩ => ⟨_, hes, mayDrive_of_command (hS ▸ he) hd⟩⟩
  | illegal p w e he hd => exact ⟨[], drives_nil (by simp) (by simp), .inl rfl⟩
  | store p x rest he =>
    obtain ⟨ht, hw⟩ := drives_makePendingStore x rest (servePort p s)
    exact ⟨[], ⟨ht, hw⟩, .inl rfl⟩

/-! ## What happens to PENDING -/

section

variable (s : State) (p q : Port) (l : List PendingStore)

@[simp] theorem withEvents_portState (es : List PinEvent) : (withEvents es s).portState q = s.portState q := by
  cases q <;> rfl

theorem setPending_pending : ((s.setPending p l).portState q).pending = if q = p then l else (s.portState q).pending := by
  cases p <;> cases q <;> rfl

theorem makePendingStore_pending (x : PendingStore) :
    ((makePendingStore x l s).portState q).pending = if q = s.port then l else (s.portState q).pending := by
  cases l <;> simp [makePendingStore, respond_eq, withResponse_pending, setPending_pending]

end

/-- R19: of the operations SET_ALL alone, on its own port, touches PENDING. -/
theorem pending_of_execEffect {i : Instr} {s t : State} (e : ExecEffect i s t) (q : Port) :
    (t.portState q).pending = (s.portState q).pending ∨
      q = s.port ∧ ∃ m, i = .setAll m ∧ (t.portState q).pending = setAllRemainder m := by
  cases e with
  | setAll m hi =>
    rw [setPending_pending]
    by_cases hq : q = s.port
    · exact .inr ⟨hq, m, hi, if_pos hq⟩
    · exact .inl (by rw [if_neg hq, writeLevel_portState])
  | notPermitted | bounds | lines | setLevel | getLevel | tick => exact .inl (by simp [withResponse_pending])

/-- R19, R24: PENDING of a port is touched by a SET_ALL on it, and by the stores it owes. -/
theorem pending_of_step {s t : State} (h : step s = .next t) (q : Port) :
    (t.portState q).pending = (s.portState q).pending ∨
    (∃ w m, nextEvent s = .command q w ∧ decode w = .ok (.setAll m) ∧ (t.portState q).pending = setAllRemainder m) ∨
    ∃ x rest, nextEvent s = .store q x rest ∧ (t.portState q).pending = rest := by
  cases step_cases h with
  | idle he => exact .inl (by cases q <;> rfl)
  | tick he => exact .inl (by rw [refreshTick_portState]; cases q <;> rfl)
  | command p w i t he hd e =>
    rw [← takeWord_servePort_pending s p q]
    refine (pending_of_execEffect e q).imp_right fun ⟨hq, m, hi, hm⟩ => .inl ⟨w, m, ?_, hi ▸ hd, hm⟩
    rw [he, hq, takeWord_servePort_port]
  | illegal p w e he hd => exact .inl (by rw [withResponse_pending, takeWord_servePort_pending])
  | store p x rest he =>
    rw [makePendingStore_pending, servePort_port]
    by_cases hq : q = p
    · exact .inr (.inr ⟨x, rest, hq ▸ he, if_pos hq⟩)
    · exact .inl (by rw [if_neg hq]; cases q <;> rfl)

/-- R19, R88: every step leaves PENDING a last part of what a SET_ALL owes. -/
theorem pendingOwed_of_step {s t : State} (h : step s = .next t) (p : Port) (hs : PendingOwed (s.portState p).pending) :
    PendingOwed (t.portState p).pending := by
  obtain same | ⟨w, m, -, -, all⟩ | ⟨x, rest, he, tail⟩ := pending_of_step h p
  · rwa [same]
  · exact ⟨m, all ▸ List.suffix_refl _⟩
  · obtain ⟨-, onStore, -⟩ := nextEvent_inv he
    obtain ⟨-, howed⟩ := onStore p x rest rfl
    obtain ⟨m, hm⟩ := howed ▸ hs
    exact ⟨m, tail ▸ (List.suffix_cons x rest).trans hm⟩

/-! ## The invariant -/

theorem pinsAfter_append (p : Pins) (es fs : List PinEvent) : pinsAfter p (es ++ fs) = pinsAfter (pinsAfter p es) fs :=
  List.foldl_append

/-- R25 (d): every step leaves idle lines idle. -/
theorem linesIdle_of_step {s t : State} (h : step s = .next t) (hs : LinesIdle s.wires.pins) : LinesIdle t.wires.pins := by
  obtain ⟨es, ⟨-, hw⟩, hes⟩ := drives_of_step h
  rw [hw]
  obtain rfl | ⟨m, hm, -⟩ := hes
  · exact hs
  · exact linesIdle_of_drivenBy hm hs

/-- R16: the trace goes on accounting for the lines. -/
theorem traceGivesPins_of_step {s t : State} (h : step s = .next t) (hs : TraceGivesPins s) : TraceGivesPins t := by
  obtain ⟨es, ⟨ht, hw⟩, -⟩ := drives_of_step h
  rw [TraceGivesPins, ht, hw, pinsAfter_append, ← hs, wiresAfter_pins]

/-- R25 (c): an instant of the trace after a step is one of the trace before it, or one of the span the step adds. -/
theorem oneRowAtEveryInstant_of_step {s t : State} (h : step s = .next t) (hpins : TraceGivesPins s)
    (hrows : OneRowAtEveryInstant s) : OneRowAtEveryInstant t := by
  obtain ⟨es, ht, -, hes⟩ := drivesRowFirst_of_step h
  intro fs hfs
  rw [ht] at hfs
  obtain before | ⟨gs, rfl⟩ := List.prefix_or_prefix_of_prefix hfs (List.prefix_append s.trace es)
  · exact hrows fs before
  · have within : gs <+: es := (List.prefix_append_right_inj s.trace).mp hfs
    rw [pinsAfter_append, ← hpins]
    exact rowsHigh_le_one_of_rowSwitchedFirst hes (hpins ▸ hrows s.trace (List.prefix_refl _)) within

/-- Settles O54: each clause of the invariant is kept by its own lemma. -/
theorem everyStepKeepsTheInvariant : Obligations.EveryStepKeepsTheInvariant := by
  intro s t hs h
  exact
    { lines := linesIdle_of_step h hs.lines
      pins := traceGivesPins_of_step h hs.pins
      rows := oneRowAtEveryInstant_of_step h hs.pins hs.rows
      owedF := pendingOwed_of_step h .F hs.owedF
      owedS := pendingOwed_of_step h .S hs.owedS }

/-- Settles O53: the trace is empty, and nothing is owed. -/
theorem invariantHoldsAtReset : Obligations.InvariantHoldsAtReset where
  lines := ⟨rfl, rfl, rfl⟩
  pins := rfl
  rows es hes := by
    obtain rfl := List.prefix_nil.mp hes
    decide
  owedF := ⟨0x0000#16, List.nil_suffix⟩
  owedS := ⟨0x0000#16, List.nil_suffix⟩

/-- Settles O55: a step adds to the trace the events by which it changes the lines and the chain. -/
theorem theTraceExplainsTheWires : Obligations.TheTraceExplainsTheWires := by
  refine ⟨rfl, fun c s t hs h => ?_⟩
  obtain ⟨es, ⟨ht, hw⟩, -⟩ := drives_of_step h
  rw [ExplainedByTrace, ht, hw, wiresAfter_append, ← hs]

end Sys2Proof.Machine

/-! # What a step is: the word presented, the tick, the owed store, nothing (R42, R50, R59, R88) -/

namespace Sys2Proof.Machine

/-! ## Words (R50, R58, R59) -/

/-- R50, R58: the step that takes a word that decodes executes its operation. -/
theorem step_of_presented_decoded {p : Port} {w : Word} {i : Instr} {ws : List Word} {rest : List Agent} {s : State}
    (h : Presented p w ws rest s) (hd : decode w = .ok i) : step s = exec i (wordTaken p ws rest s) := by
  rw [step_of_presented h, runWord, hd]

/-- Settles O7: the word is taken, decoded and run. -/
theorem stepRunsTheDecodedCommand : Obligations.StepRunsTheDecodedCommand :=
  fun _ _ _ _ _ _ h hd => step_of_presented_decoded h hd

/-- Settles O8: the illegal words are those that select no row. -/
theorem illegalWordsAreAnsweredIllegal : Obligations.IllegalWordsAreAnsweredIllegal := by
  refine ⟨fun p w ws rest s h hw => ?_, fun w hw => decode_of_legal hw, .inl rfl, .inr (by decide)⟩
  rw [step_of_presented h, runWord_of_no_row _ ((no_row_iff w).mpr hw), wordTaken_port]

/-- Settles O13: a placed word is presented on port S, and taking it restores what was there before. -/
theorem placedInstructionRunsNext : Obligations.PlacedInstructionRunsNext := by
  intro nbits w i s hi
  have hd : decode (tableWord nbits w) = .ok i := by
    unfold decodeTableWord at hi
    split at hi
    · next j hj => rw [hj, Option.some.inj hi]
    · cases hi
  have placed : Presented .S (tableWord nbits w) s.portS.incoming s.order (s.withFetchWord nbits w) := ⟨rfl, rfl, rfl⟩
  rw [step_of_presented_decoded placed hd]
  rfl

/-! ## Ticks (R116) -/

/-- R116: the step that takes a tick is one whole TICK. -/
theorem step_of_timer {rest : List Agent} {s : State} (h : s.order = .timer :: rest) :
    step s = .next (refreshTick { s with order := rest }) := by
  rw [step_eq s _ (nextEvent_timer s rest h), runEvent, passTurn, h, List.tail_cons]

/-- Settles O9: the pin writes of a tick are the events its rule lists. -/
theorem stepTakesTheTick : Obligations.StepTakesTheTick := by
  intro rest s h
  rw [step_of_timer h, refreshTick_eq]
  rfl

/-! ## Owed stores and idle turns (R88) -/

/-- Settles O10: an owed store comes before any word. -/
theorem stepMakesTheOwedStore : Obligations.StepMakesTheOwedStore :=
  fun _ _ _ _ _ hturn howed => step_of_owed hturn howed

/-- Log 8: with nothing in order, a step does nothing. -/
theorem step_of_no_order {s : State} (h : s.order = []) : step s = .next s := by
  have idle : nextEvent s = .idle := by simp [nextEvent, h]
  have same : passTurn s = s := by rw [passTurn, h, List.tail_nil, ← h]
  rw [step_eq s _ idle, runEvent, same]

/-- Log 8: a turn with no store and no word passes. -/
theorem step_of_idle_turn {p : Port} {rest : List Agent} {s : State} (hturn : s.order = .port p :: rest)
    (howed : (s.portState p).pending = []) (hword : (s.portState p).incoming = []) :
    step s = .next { s with order := rest } := by
  rw [step_eq s _ ((nextEvent_port s p rest hturn).trans (portEvent_idle s p howed hword)), runEvent, passTurn, hturn,
    List.tail_cons]

/-- Settles O11: the two kinds of idle step. -/
theorem idleTurnsChangeNothing : Obligations.IdleTurnsChangeNothing :=
  ⟨fun _ h => step_of_no_order h, fun _ _ _ hturn howed hword => step_of_idle_turn hturn howed hword⟩

/-! ## Every step answers (R110, R114, R132) -/

/-- R114: every word is answered. -/
theorem runWord_next (w : Word) (s : State) : ∃ t, runWord w s = .next t := by
  unfold runWord
  cases decode w with
  | ok i => exact exec_next s i
  | error e => exact ⟨_, rfl⟩

/-- Settles O12: each kind of event answers a next state. -/
theorem everyStepAnswersANextState : Obligations.EveryStepAnswersANextState := by
  intro s
  unfold step
  cases nextEvent s with
  | command p w => exact runWord_next w _
  | idle | tick | store => exact ⟨_, rfl⟩

end Sys2Proof.Machine

/-! # Owners, responses, and what port F can reach (R24, R56, R57, R121, R123) -/

namespace Sys2Proof.Machine

/-! ## What one pin event moves -/

/-- R13, R14, R126: a line moves on its own events alone, the shift stage on CLK and CLRn, the output stage on LATCH. -/
theorem movesItsOwn (x : Wires) (e : PinEvent) : MovesItsOwn x e := by
  cases e with
  | data v =>
    exact ⟨fun _ => ⟨v, rfl⟩, absurd rfl, absurd rfl, absurd rfl, absurd rfl, absurd rfl, absurd rfl⟩
  | clk v =>
    have out_kept : (x.react (.clk v)).chain.out = x.chain.out :=
      wiresAfter_out [.clk v] x (by simp)
    exact ⟨absurd rfl, fun _ => ⟨v, rfl⟩, absurd rfl, absurd rfl, absurd rfl, fun _ => ⟨v, .inl rfl⟩, absurd out_kept⟩
  | latch v =>
    have sr_kept : (x.react (.latch v)).chain.sr = x.chain.sr := by
      simp only [Wires.react, chainReact]
      split <;> rfl
    exact ⟨absurd rfl, absurd rfl, fun _ => ⟨v, rfl⟩, absurd rfl, absurd rfl, absurd sr_kept, fun _ => ⟨v, rfl⟩⟩
  | clrn v =>
    have out_kept : (x.react (.clrn v)).chain.out = x.chain.out :=
      wiresAfter_out [.clrn v] x (by simp)
    exact ⟨absurd rfl, absurd rfl, absurd rfl, fun _ => ⟨v, rfl⟩, absurd rfl, fun _ => ⟨v, .inr rfl⟩, absurd out_kept⟩
  | row v =>
    exact ⟨absurd rfl, absurd rfl, absurd rfl, absurd rfl, fun _ => ⟨v, rfl⟩, absurd rfl, absurd rfl⟩

/-! ## Who may cause a change -/

/-- R44: a step that changes the FrameBuffer makes a store. -/
theorem eventStore_of_fb_ne {s t : State} (h : step s = .next t) (hne : t.fb ≠ s.fb) :
    ∃ x, eventStore (nextEvent s) = some x := by
  refine Option.ne_none_iff_exists'.mp fun none_made => hne (fb_ext fun l => ?_)
  have held := readLevel_of_step h l
  rwa [none_made] at held

/-- R24: an event that may drive as one of the operations `ms` and TICK is a tick, or a command of port S for one of `ms`. -/
theorem owner_of_mayDrive {s : State} {m : Mnemonic} {ms : List Mnemonic} (h : MayDrive s m) (hm : m ∈ .TICK :: ms) :
    eventTicks (nextEvent s) = true ∨ RunsOnPortS s ms := by
  obtain ⟨-, ticks⟩ | ⟨hne, w, i, he, hd, hi⟩ := h
  · exact .inl ticks
  · rw [← List.mem_singleton.mp hi] at hm hne
    exact .inr ⟨w, i, he, hd, (List.mem_cons.mp hm).resolve_left hne⟩

/-- R24: CLEAR is no tick. -/
theorem runsOnPortS_of_mayDrive {s : State} {m : Mnemonic} (h : MayDrive s m) (hm : m ∈ [.CLEAR]) :
    RunsOnPortS s [.CLEAR] := by
  obtain rfl := List.mem_singleton.mp hm
  exact h.elim (fun ⟨h, _⟩ => by cases h) fun ⟨_, runs⟩ => runs

/-- Every event a step adds is one its event may drive. -/
theorem mayDrive_of_mem {s : State} {es : List PinEvent} (h : es = [] ∨ ∃ m, DrivenBy m es ∧ MayDrive s m) :
    ∀ e ∈ es, ∃ m ∈ driversOf e, MayDrive s m := by
  obtain rfl | ⟨m, hm, may⟩ := h
  · exact nofun
  · exact fun e he => ⟨m, mem_driversOf hm e he, may⟩

/-- Settles O58: each field of the state, and each kind of pin event, by the lemma that says what changes it. -/
theorem onlyOwnersWrite : Obligations.OnlyOwnersWrite := by
  intro s t h
  refine ⟨eventStore_of_fb_ne h, fun hne => ?cursor, fun p hne => ?pending, ?wires⟩
  case cursor =>
    by_contra no_tick
    exact hne ((cursor_of_step h).trans (if_neg no_tick))
  case pending =>
    obtain same | ⟨w, m, he, hd, -⟩ | ⟨x, rest, he, -⟩ := pending_of_step h p
    · exact absurd same hne
    · exact .inl ⟨w, m, he, hd⟩
    · exact .inr ⟨x, rest, he⟩
  case wires =>
    obtain ⟨es, ⟨ht, hw⟩, hes⟩ := drives_of_step h
    have owned := mayDrive_of_mem hes
    refine ⟨es, ht, hw, fun fs e gs _ => movesItsOwn _ e, fun v hv => ?_, fun v hv => ?_, fun v hv => ?_, fun v hv => ?_,
      fun v hv => ?_⟩
    all_goals obtain ⟨m, hm, may⟩ := owned _ hv
    · exact owner_of_mayDrive may hm
    · exact owner_of_mayDrive may hm
    · exact owner_of_mayDrive may hm
    · exact runsOnPortS_of_mayDrive may hm
    · exact owner_of_mayDrive may hm

/-- Settles O32: the row events of a step are those of a SELECT, if it has any. -/
theorem traceGrowsByLegalEvents : Obligations.TraceGrowsByLegalEvents := by
  intro s t h
  obtain ⟨es, ht, -, hes⟩ := drivesRowFirst_of_step h
  refine ⟨es, ht, fun v hv => ?_⟩
  cases hes with
  | never hno => exact absurd rfl (hno _ hv v)
  | @select l gs hno =>
    have row_legal : ∀ l : Level, rowOfLevel l ∈ [0b0000#4, 0b0001#4, 0b0010#4, 0b0100#4, 0b1000#4] := by decide
    obtain of_select | rest := List.mem_append.mp hv
    · obtain rfl | rfl : v = 0b0000#4 ∨ v = rowOfLevel l := by simpa [selectEvents] using of_select
      · exact List.mem_cons_self
      · exact row_legal l
    · exact absurd rfl (hno _ rest v)

/-! ## Responses (R56, R57) -/

/-- The event is one that a response on port `p` may answer. -/
def Answerable (s : State) (p : Port) : Prop :=
  (∃ v, nextEvent s = .command p v) ∨ ∃ x, nextEvent s = .store p x []

/-- What the event of `s` may return on port `p`: nothing; one of the four words without data; the data of a GET_LEVEL on port S. -/
inductive Returns (s : State) : Port → List Word → Prop
  | nothing (p : Port) : Returns s p []
  | status {p : Port} {w : Word} : Answerable s p →
      w ∈ [0x00000000#32, 0x01000000#32, 0x02000000#32, 0x03000000#32] → Returns s p [w]
  | data {v : Word} {l : Byte} (d : Mask) : nextEvent s = .command .S v → decode v = .ok (.getLevel l) →
      Returns s .S [0x0000#16 ++ d]

/-- The port `p` has been given the response words `rs` and the other port none. -/
def Answered (s t : State) (p : Port) (rs : List Word) : Prop :=
  ∀ q, (t.portState q).responses = (s.portState q).responses ++ if q = p then rs else []

theorem answered_nil {s t : State} (p : Port) (h : ∀ q, (t.portState q).responses = (s.portState q).responses) :
    Answered s t p [] := fun q => by simp [h q]

theorem answered_withResponse {s u : State} (p : Port) (w : Word)
    (h : ∀ q, (u.portState q).responses = (s.portState q).responses) : Answered s (withResponse p w u) p [w] :=
  fun q => by rw [withResponse_responses, h q]

@[simp] theorem setPending_responses (s : State) (p q : Port) (l : List PendingStore) :
    ((s.setPending p l).portState q).responses = (s.portState q).responses := by
  cases p <;> cases q <;> rfl

theorem makePendingStore_nil (x : PendingStore) (s : State) :
    makePendingStore x [] s = withResponse s.port 0x00000000#32 ((s.writeLevel x.level x.mask).setPending s.port []) := by
  simp [makePendingStore, respond_eq, responseWord_ok_zero]

theorem makePendingStore_cons (x y : PendingStore) (ys : List PendingStore) (s : State) :
    makePendingStore x (y :: ys) s = (s.writeLevel x.level x.mask).setPending s.port (y :: ys) := rfl

/-- R56: answering with one of the words without data. -/
theorem returns_status {s u v : State} {p : Port} {w : Word} (answerable : Answerable s p)
    (hw : w ∈ [0x00000000#32, 0x01000000#32, 0x02000000#32, 0x03000000#32])
    (hv : ∀ q, (v.portState q).responses = (u.portState q).responses) :
    ∃ rs, Answered u (withResponse p w v) p rs ∧ Returns s p rs :=
  ⟨[w], answered_withResponse p w hv, .status answerable hw⟩

/-- R56 to R58: what a command of port `p` returns. -/
theorem returns_of_execEffect {i : Instr} {s u t : State} {p : Port} {w : Word} (he : nextEvent s = .command p w)
    (hd : decode w = .ok i) (hp : u.port = p) (e : ExecEffect i u t) :
    ∃ rs, Answered u t p rs ∧ Returns s p rs := by
  have answerable : Answerable s p := .inl ⟨w, he⟩
  subst hp
  cases e with
  | notPermitted hF =>
    rw [hF] at answerable ⊢
    exact returns_status answerable (by simp) fun _ => rfl
  | bounds => exact returns_status answerable (by simp) fun _ => rfl
  | lines es hS =>
    rw [hS] at answerable ⊢
    exact returns_status answerable (by simp) (by simp)
  | setLevel => exact returns_status answerable (by simp) (by simp)
  | setAll => exact ⟨[], answered_nil _ (by simp), .nothing _⟩
  | getLevel l h hi hS =>
    subst hi
    rw [hS] at he ⊢
    exact ⟨_, answered_withResponse _ _ fun _ => rfl, .data _ he hd⟩
  | tick hi hS =>
    rw [hS] at answerable ⊢
    exact returns_status answerable (by simp) (by simp)

/-- R56: what a step returns, and on which port. -/
theorem returns_of_step {s t : State} (h : step s = .next t) : ∃ p rs, Answered s t p rs ∧ Returns s p rs := by
  cases step_cases h with
  | idle he => exact ⟨.S, [], answered_nil _ fun q => by cases q <;> rfl, .nothing _⟩
  | tick he => exact ⟨.S, [], answered_nil _ fun q => by rw [refreshTick_portState]; cases q <;> rfl, .nothing _⟩
  | command p w i t he hd e =>
    obtain ⟨rs, hrs, returned⟩ := returns_of_execEffect he hd (takeWord_servePort_port s p) e
    exact ⟨p, rs, fun q => by rw [hrs q, takeWord_servePort_responses], returned⟩
  | illegal p w e he hd =>
    exact ⟨p, returns_status (.inl ⟨w, he⟩) (by simp) (takeWord_servePort_responses s p)⟩
  | store p x rest he =>
    have served (q : Port) : ((servePort p s).portState q).responses = (s.portState q).responses := by cases q <;> rfl
    cases rest with
    | nil =>
      rw [makePendingStore_nil]
      exact ⟨p, returns_status (.inr ⟨x, he⟩) (by simp) (by simp [served])⟩
    | cons y ys =>
      rw [makePendingStore_cons]
      exact ⟨p, [], answered_nil _ (by simp [served]), .nothing _⟩

/-- R56: a word of 16 zero bits and 16 data bits. -/
theorem okWord_extractLsb' (d : Mask) :
    (0x0000#16 ++ d).extractLsb' 16 8 = 0#8 ∧ (0x0000#16 ++ d).extractLsb' 24 8 = 0#8 := by
  constructor <;>
  · apply BitVec.eq_of_getLsbD_eq
    intro i hi
    simp only [BitVec.getLsbD_extractLsb', BitVec.getLsbD_append]
    grind

/-- R57: a word without data has one of the four status codes and zeros below it. -/
theorem statusWord_fields : ∀ w ∈ [0x00000000#32, 0x01000000#32, 0x02000000#32, 0x03000000#32],
    w.extractLsb' 16 8 = 0#8 ∧ (w.extractLsb' 24 8).toNat ≤ 3 ∧ w.extractLsb' 0 16 = 0#16 := by simp

/-- Settles O59: the words a step may return have their form. -/
theorem responseWordsHaveTheirForm : Obligations.ResponseWordsHaveTheirForm := by
  intro s t h
  obtain ⟨p, rs, answered, returned⟩ := returns_of_step h
  refine ⟨p, rs, (answered p).trans (by rw [if_pos rfl]), ?_, fun q hq => (answered q).trans (by simp [hq]), ?_⟩
  · cases returned <;> simp
  · cases returned with
    | nothing => exact nofun
    | status answerable hw =>
      intro w hmem
      obtain rfl := List.mem_singleton.mp hmem
      obtain ⟨zeros, code, no_data⟩ := statusWord_fields w hw
      exact ⟨answerable, zeros, code, absurd no_data⟩
    | @data v l d he hd =>
      intro w hmem
      obtain rfl := List.mem_singleton.mp hmem
      obtain ⟨zeros, code⟩ := okWord_extractLsb' d
      exact ⟨.inl ⟨v, he⟩, zeros, by rw [code]; decide, fun _ => ⟨code, v, l, he, rfl, hd⟩⟩

/-! ## A turn of port F (R121, R123) -/

section

variable (s : State) {p q : Port}

theorem withResponse_portState_other (w : Word) (h : q ≠ p) : (withResponse p w s).portState q = s.portState q := by
  cases p with
  | F => cases q with
    | F => exact absurd rfl h
    | S => rfl
  | S => cases q with
    | F => rfl
    | S => exact absurd rfl h

theorem makePendingStore_portState_other (x : PendingStore) (l : List PendingStore) (h : q ≠ s.port) :
    (makePendingStore x l s).portState q = s.portState q := by
  cases l with
  | nil =>
    rw [makePendingStore_nil, withResponse_portState_other _ _ h, State.setPending, portState_setPortState_other _ _ q _ h,
      writeLevel_portState]
  | cons y ys =>
    rw [makePendingStore_cons, State.setPending, portState_setPortState_other _ _ q _ h, writeLevel_portState]

end

/-- R121: an operation leaves what the other port holds alone. -/
theorem portState_other_of_execEffect {i : Instr} {s t : State} (e : ExecEffect i s t) {q : Port} (h : q ≠ s.port) :
    t.portState q = s.portState q := by
  cases e with
  | notPermitted hF => exact withResponse_portState_other s _ (hF ▸ h)
  | bounds => exact withResponse_portState_other s _ h
  | lines es hS => rw [withResponse_portState_other _ _ (hS ▸ h), withEvents_portState]
  | setLevel => rw [withResponse_portState_other _ _ h, writeLevel_portState]
  | setAll => rw [State.setPending, portState_setPortState_other _ _ q _ h, writeLevel_portState]
  | getLevel l hl hi hS => exact withResponse_portState_other s _ (hS ▸ h)
  | tick hi hS => rw [withResponse_portState_other _ _ (hS ▸ h), refreshTick_portState]

/-- R113, R121: an operation on port F drives nothing. -/
theorem drives_nil_of_execEffect_F {i : Instr} {s t : State} (e : ExecEffect i s t) (hF : s.port = .F) :
    Drives s t [] := by
  obtain ⟨es, hdrives, rfl | ⟨hS, -⟩⟩ := drives_of_execEffect e
  · exact hdrives
  · cases hF.symm.trans hS

/-- R121: an operation on port F leaves the lines, TRACE, the cursor and port S alone. -/
theorem wire_untouched_of_execEffect_F {i : Instr} {s t : State} (e : ExecEffect i s t) (hF : s.port = .F) :
    t.wires = s.wires ∧ t.trace = s.trace ∧ t.cursor = s.cursor ∧ t.portS = s.portS := by
  obtain ⟨ht, hw⟩ := drives_nil_of_execEffect_F e hF
  exact ⟨hw, ht.trans (List.append_nil _), by simp [cursor_of_execEffect e, hF],
    portState_other_of_execEffect e (q := .S) (by simp [hF])⟩

/-- Settles O56: the event of a turn of port F is a command or an owed store of that port, or nothing. -/
theorem portFCannotTouchTheWire : Obligations.PortFCannotTouchTheWire := by
  intro s t rest hturn h
  obtain ⟨onCommand, onStore, onTick⟩ := nextEvent_inv (s := s) rfl
  have is_F {p : Port} (hp : ∃ rest', s.order = .port p :: rest') : p = .F := by
    obtain ⟨rest', hp⟩ := hp
    cases hturn.symm.trans hp
    rfl
  cases step_cases h with
  | idle he => exact ⟨rfl, rfl, rfl, rfl⟩
  | tick he => simpa [hturn] using onTick he
  | command p w i t he hd e =>
    obtain rfl := is_F (onCommand p w he).1
    have untouched := wire_untouched_of_execEffect_F e (takeWord_servePort_port s .F)
    rwa [takeWord_servePort_wires, takeWord_servePort_trace, takeWord_servePort_cursor] at untouched
  | illegal p w e he hd =>
    obtain rfl := is_F (onCommand p w he).1
    exact ⟨rfl, rfl, rfl, rfl⟩
  | store p x more he =>
    obtain rfl := is_F (onStore p x more he).1
    obtain ⟨ht, hw⟩ := drives_makePendingStore x more (servePort .F s)
    exact ⟨hw, ht.trans (List.append_nil _), makePendingStore_cursor .., makePendingStore_portState_other _ x more
      (q := .S) nofun⟩

/-- R113: the two operations port F may issue are SET_LEVEL and SET_ALL. -/
theorem setLevel_or_setAll_of_permitted_F {i : Instr} (h : i.mnemonic ∈ [.SET_LEVEL, .SET_ALL]) :
    (∃ l m, i = .setLevel l m) ∨ ∃ m, i = .setAll m := by
  cases i with
  | setLevel l m => exact .inl ⟨l, m, rfl⟩
  | setAll m => exact .inr ⟨m, rfl⟩
  | _ => simp [Instr.mnemonic] at h

/-- R121: what an operation leaves on port F is decided by what port F held. -/
theorem portF_determined_of_exec {i : Instr} {s₁ s₂ t₁ t₂ : State} (h₁ : s₁.port = .F) (h₂ : s₂.port = .F)
    (same : s₁.portF = s₂.portF) (e₁ : exec i s₁ = .next t₁) (e₂ : exec i s₂ = .next t₂) : t₁.portF = t₂.portF := by
  by_cases hi : i.mnemonic ∈ [.SET_LEVEL, .SET_ALL]
  · obtain ⟨l, m, rfl⟩ | ⟨m, rfl⟩ := setLevel_or_setAll_of_permitted_F hi
    · rcases Nat.lt_or_ge l.toNat 4 with hl | hl
      · cases (exec_setLevel_lt m s₁ hl).symm.trans e₁
        cases (exec_setLevel_lt m s₂ hl).symm.trans e₂
        simp [h₁, h₂, withResponse, same]
      · cases (exec_of_level_ge (.inr hi) rfl hl).symm.trans e₁
        cases (exec_of_level_ge (.inr hi) rfl hl).symm.trans e₂
        simp [h₁, h₂, withResponse, same]
    · cases e₁
      cases e₂
      simp [h₁, h₂, State.setPending, same]
  · cases (exec_of_not_permitted h₁ hi).symm.trans e₁
    cases (exec_of_not_permitted h₂ hi).symm.trans e₂
    simp [withResponse, same]

/-- R133: what taking a word leaves on port F is decided by what port F held. -/
theorem portF_determined_of_runWord {w : Word} {s₁ s₂ t₁ t₂ : State} (h₁ : s₁.port = .F) (h₂ : s₂.port = .F)
    (same : s₁.portF = s₂.portF) (e₁ : runWord w s₁ = .next t₁) (e₂ : runWord w s₂ = .next t₂) :
    t₁.portF = t₂.portF := by
  unfold runWord at e₁ e₂
  cases hd : decode w with
  | ok i =>
    rw [hd] at e₁ e₂
    exact portF_determined_of_exec h₁ h₂ same e₁ e₂
  | error err =>
    rw [hd, raiseError_eq] at e₁ e₂
    cases e₁
    cases e₂
    simp [h₁, h₂, withResponse, same]

/-- Settles O57: the turn is an owed store, a word or nothing in both states alike, with the same answer. -/
theorem portFLearnsNothing : Obligations.PortFLearnsNothing := by
  intro s₁ s₂ t₁ t₂ rest₁ rest₂ turn₁ turn₂ same e₁ e₂
  cases howed₁ : s₁.portF.pending with
  | cons x more =>
    have howed₂ : s₂.portF.pending = x :: more := same ▸ howed₁
    cases (step_of_owed turn₁ howed₁).symm.trans e₁
    cases (step_of_owed turn₂ howed₂).symm.trans e₂
    simp [storeMade, same]
  | nil =>
    have howed₂ : s₂.portF.pending = [] := same ▸ howed₁
    cases hword₁ : s₁.portF.incoming with
    | cons w ws =>
      have hword₂ : s₂.portF.incoming = w :: ws := same ▸ hword₁
      rw [step_of_presented (p := .F) ⟨turn₁, howed₁, hword₁⟩] at e₁
      rw [step_of_presented (p := .F) ⟨turn₂, howed₂, hword₂⟩] at e₂
      exact portF_determined_of_runWord rfl rfl (by simp [wordTaken, same]) e₁ e₂
    | nil =>
      have hword₂ : s₂.portF.incoming = [] := same ▸ hword₁
      cases (step_of_idle_turn turn₁ howed₁ hword₁).symm.trans e₁
      cases (step_of_idle_turn turn₂ howed₂ hword₂).symm.trans e₂
      exact same

end Sys2Proof.Machine

/-! # The operations of port S on the lines and the chain (R70 to R76, R80, R127) -/

namespace Sys2Proof.Machine

/-! ## What each operation drives (R70 to R73) -/

section

variable {s : State} (h : s.port = .S)

include h

theorem exec_writeByte_of_S (v : Byte) :
    exec (.writeByte v) s = .next (withResponse .S 0x00000000#32 (withEvents (byteEvents v) s)) := by
  rw [exec, execWriteByte, onSystemPort_S _ _ h, sendByte_eq, respond_eq, withEvents_port, h, responseWord_ok_zero]

theorem exec_latch_of_S : exec .latch s = .next (withResponse .S 0x00000000#32 (withEvents latchEvents s)) := by
  rw [exec, execLatch, onSystemPort_S _ _ h, pulseLatch_eq, respond_eq, withEvents_port, h, responseWord_ok_zero]

theorem exec_clear_of_S : exec .clear s = .next (withResponse .S 0x00000000#32 (withEvents clearEvents s)) := by
  rw [exec, execClear, onSystemPort_S _ _ h, blankChain_eq, respond_eq, withEvents_port, h, responseWord_ok_zero]

end

/-- Settles O17: the pin writes of WRITE_BYTE are the events its rule lists. -/
theorem writeByteDrivesItsEvents : Obligations.WriteByteDrivesItsEvents := fun v _ h => ⟨exec_writeByte_of_S h v, rfl⟩

/-- Settles O18: the pin writes of LATCH are the events its rule lists. -/
theorem latchDrivesItsEvents : Obligations.LatchDrivesItsEvents := fun _ h => exec_latch_of_S h

/-- Settles O19: the pin writes of CLEAR are the events its rule lists. -/
theorem clearDrivesItsEvents : Obligations.ClearDrivesItsEvents := fun _ h => exec_clear_of_S h

/-- Settles O20: the pin writes of WRITE_FRAME are the events its rule lists. -/
theorem writeFrameDrivesItsEvents : Obligations.WriteFrameDrivesItsEvents := fun m _ h => ⟨exec_writeFrame_of_S m h, rfl⟩

/-- Settles O45: the pin writes of a tick are the events its rule lists, for the mask read before them. -/
theorem tickDrawsTheLevelUnderTheCursor : Obligations.TickDrawsTheLevelUnderTheCursor := by
  intro s h
  rw [exec_tick_of_S h, refreshTick_eq]
  exact ⟨rfl, fun _ _ => rfl⟩

/-- Settles O29: the row events leave the row of the level, and the chain does not react to them. -/
theorem selectSwitchesTheRow : Obligations.SelectSwitchesTheRow := by
  intro level s hS h
  rw [exec_select_of_S hS h, withEvents, wiresAfter_selectEvents, selectEvents, rowOfLevel_eq_shiftLeft]

/-! ## What each operation leaves in the chain (R70 to R73, from R126) -/

/-- R126: a command of port S that drives events leaves the lines and the chain those events lead to. -/
theorem wires_of_answered_events {i : Instr} {s : State} {es : List PinEvent} {x : Wires}
    (h : exec i s = .next (withResponse .S 0x00000000#32 (withEvents es s))) (hx : wiresAfter s.wires es = x) :
    ∃ t, exec i s = .next t ∧ t.port = s.port ∧ t.wires = x :=
  ⟨_, h, by rw [withResponse_port, withEvents_port], by rw [withResponse_wires, withEvents_wires, hx]⟩

/-- R70: WRITE_BYTE moves the chain eight places. -/
theorem exec_writeByte_wires {s : State} (hS : s.port = .S) (h : LinesIdle s.wires.pins) (v : Byte) :
    ∃ t, exec (.writeByte v) s = .next t ∧ t.port = s.port ∧ t.wires =
      { pins := { s.wires.pins with data := false }, chain := { s.wires.chain with sr := shiftByte s.wires.chain.sr v } } := by
  obtain ⟨hk, -, hn⟩ := h
  exact wires_of_answered_events (exec_writeByte_of_S hS v) (wiresAfter_byteEvents s.wires v hk hn)

/-- R71: LATCH copies the shift stage to the outputs. -/
theorem exec_latch_wires {s : State} (hS : s.port = .S) (h : LinesIdle s.wires.pins) :
    ∃ t, exec .latch s = .next t ∧ t.port = s.port ∧
      t.wires = { s.wires with chain := { s.wires.chain with out := s.wires.chain.sr } } := by
  obtain ⟨-, hl, -⟩ := h
  exact wires_of_answered_events (exec_latch_of_S hS) (wiresAfter_latchEvents s.wires hl)

/-- R72: the clear pulse alone zeroes the shift stage and leaves the outputs. -/
theorem wiresAfter_clear_pulse (x : Wires) (hn : x.pins.clrn = true) :
    wiresAfter x [.clrn false, .clrn true] = { x with chain := { x.chain with sr := 0x0000#16 } } := by
  obtain ⟨⟨d, k, l, n, r⟩, ⟨sr, out⟩⟩ := x
  cases hn
  rfl

/-- R72: the latch pulse after it zeroes the outputs. -/
theorem wiresAfter_clearEvents (x : Wires) (h : LinesIdle x.pins) :
    wiresAfter x clearEvents = { x with chain := { sr := 0x0000#16, out := 0x0000#16 } } := by
  obtain ⟨-, hl, hn⟩ := h
  rw [show clearEvents = [.clrn false, .clrn true] ++ latchEvents from rfl, wiresAfter_append, wiresAfter_clear_pulse x hn,
    wiresAfter_latchEvents _ (by exact hl)]

theorem reverse_reverse {w : Nat} (x : BitVec w) : x.reverse.reverse = x := by
  apply BitVec.eq_of_getLsbD_eq
  intro i hi
  rw [BitVec.getLsbD_reverse, BitVec.getMsbD_reverse]

/-- R130: a chain that holds a mask reversed shows the mask. -/
theorem columns_of_out_reverse {c : Chain} {m : Mask} (h : c.out = m.reverse) : columns c = m := by
  rw [columns, h, reverse_reverse]

/-- Settles O21: eight places along the chain are a shift by eight and the byte reversed. -/
theorem writeByteShiftsItsByteIn : Obligations.WriteByteShiftsItsByteIn := by
  intro v s hS h
  obtain ⟨t, ht, -, hw⟩ := exec_writeByte_wires hS h v
  rw [shiftByte_eq] at hw
  exact ⟨t, ht, by rw [hw], by rw [hw], by rw [hw]⟩

/-- Settles O22: the latch pulse's effect, read off the chain. -/
theorem latchCopiesTheShiftStage : Obligations.LatchCopiesTheShiftStage := by
  intro s hS h
  obtain ⟨t, ht, -, hw⟩ := exec_latch_wires hS h
  exact ⟨t, ht, by rw [hw], by rw [hw]⟩

/-- Settles O23: the clear pulse acts on the shift stage, and the latch pulse after it on the outputs. -/
theorem clearBlanksTheChain : Obligations.ClearBlanksTheChain := by
  intro s hS h
  obtain ⟨t, ht, -, hw⟩ := wires_of_answered_events (exec_clear_of_S hS) (wiresAfter_clearEvents s.wires h)
  obtain ⟨-, -, hn⟩ := h
  exact ⟨⟨t, ht, by rw [hw], by rw [hw]⟩, congrArg Wires.chain (wiresAfter_clear_pulse s.wires hn)⟩

/-- Settles O24: sixteen places leave nothing of the old frame. -/
theorem writeFrameShowsItsMask : Obligations.WriteFrameShowsItsMask := by
  intro m s hS h
  obtain ⟨t, ht, -, hw⟩ := wires_of_answered_events (exec_writeFrame_of_S m hS) (wiresAfter_frameEvents s.wires m h)
  exact ⟨t, ht, by rw [hw], columns_of_out_reverse (by rw [hw]), by rw [hw]⟩

/-! ## Partial writes (R76) -/

/-- R126: a byte stands reversed in the first register, and pushes what the first held into the second. -/
theorem shiftByte_eq_append (sr : Mask) (v : Byte) : shiftByte sr v = sr.extractLsb' 0 8 ++ v.reverse := by
  rw [shiftByte_eq]
  apply BitVec.eq_of_getLsbD_eq
  intro i hi
  simp only [BitVec.getLsbD_or, BitVec.getLsbD_shiftLeft, BitVec.getLsbD_setWidth, BitVec.getLsbD_append,
    BitVec.getLsbD_extractLsb']
  grind

/-- R130: the columns show the first register's byte high and the second's low, each reversed. -/
theorem columns_of_out_append {c : Chain} {a b : Byte} (h : c.out = a ++ b) : columns c = b.reverse ++ a.reverse := by
  rw [columns, h]
  exact BitVec.reverse_append

/-- A mask is its high byte and its low byte. -/
theorem mask_eq_append (m : Mask) : m = m.extractLsb' 8 8 ++ m.extractLsb' 0 8 := by
  apply BitVec.eq_of_getLsbD_eq
  intro i hi
  simp only [BitVec.getLsbD_append, BitVec.getLsbD_extractLsb']
  grind

/-- R76: one byte and a latch show the byte in the first register, and what the first held before in the second. -/
theorem out_of_writeByte_latch {s : State} (hS : s.port = .S) (h : LinesIdle s.wires.pins) (v : Byte) :
    ∃ t u, exec (.writeByte v) s = .next t ∧ exec .latch t = .next u ∧
      u.wires.chain.out = s.wires.chain.sr.extractLsb' 0 8 ++ v.reverse := by
  obtain ⟨t, ht, hp, hw⟩ := exec_writeByte_wires hS h v
  obtain ⟨u, hu, -, hw'⟩ := exec_latch_wires (hp.trans hS) (by rw [hw]; exact h)
  exact ⟨t, u, ht, hu, by rw [hw', hw, shiftByte_eq_append]⟩

/-- Settles O25: each byte sent moves the byte of the first register to the second, which the columns show low. -/
theorem partialWritesShowStaleBits : Obligations.PartialWritesShowStaleBits := by
  intro s hS h
  refine ⟨fun v => ?one, fun a b c => ?three⟩
  case one =>
    obtain ⟨t, u, ht, hu, hout⟩ := out_of_writeByte_latch hS h v
    have shown := columns_of_out_append hout
    rw [reverse_reverse] at shown
    refine ⟨t, u, ht, hu, ?_, ?_, ?_, fun latched => ?_⟩
    · rw [hout]
      exact BitVec.extractLsb'_append_eq_right
    · rw [hout]
      exact BitVec.extractLsb'_append_eq_left
    · rw [shown]
      exact BitVec.extractLsb'_append_eq_left
    · rw [shown, columns_of_out_append (latched.trans (mask_eq_append s.wires.chain.sr))]
      exact BitVec.extractLsb'_append_eq_right.trans BitVec.extractLsb'_append_eq_left.symm
  case three =>
    obtain ⟨t₁, h₁, hp₁, hw₁⟩ := exec_writeByte_wires hS h a
    have idle₁ : LinesIdle t₁.wires.pins := by rw [hw₁]; exact h
    obtain ⟨t₂, h₂, hp₂, hw₂⟩ := exec_writeByte_wires (hp₁.trans hS) idle₁ b
    have idle₂ : LinesIdle t₂.wires.pins := by rw [hw₂]; exact idle₁
    obtain ⟨t₃, u, h₃, hu, hout⟩ := out_of_writeByte_latch (hp₂.trans (hp₁.trans hS)) idle₂ c
    have first_register : t₂.wires.chain.sr.extractLsb' 0 8 = b.reverse := by
      rw [hw₂, shiftByte_eq_append]
      exact BitVec.extractLsb'_append_eq_right
    rw [first_register] at hout
    refine ⟨t₁, t₂, t₃, u, h₁, h₂, h₃, hu, ?_⟩
    rw [columns_of_out_append hout, reverse_reverse, reverse_reverse]

/-! ## The other edge, and redundant writes (R127, R17, D16) -/

/-- R127: from idle lines, the events of an operation lead a chain that acts on falling edges where they lead R126's. -/
theorem foldl_fallingReact_of_drivenBy {m : Mnemonic} {es : List PinEvent} {x : Wires} (h : DrivenBy m es)
    (hx : LinesIdle x.pins) : es.foldl fallingReact x = wiresAfter x es := by
  have byte (v : Byte) {x : Wires} (hx : LinesIdle x.pins) :
      (byteEvents v).foldl fallingReact x = wiresAfter x (byteEvents v) := by
    obtain ⟨hk, -, hn⟩ := hx
    obtain ⟨⟨d, k, l, n, r⟩, ⟨sr, out⟩⟩ := x
    cases hk
    cases hn
    rfl
  have latch {x : Wires} (hx : LinesIdle x.pins) : latchEvents.foldl fallingReact x = wiresAfter x latchEvents := by
    obtain ⟨-, hl, -⟩ := hx
    obtain ⟨⟨d, k, l, n, r⟩, ⟨sr, out⟩⟩ := x
    cases hl
    rfl
  have frame (m : Mask) {x : Wires} (hx : LinesIdle x.pins) :
      (frameEvents m).foldl fallingReact x = wiresAfter x (frameEvents m) := by
    have low := linesIdle_of_drivenBy (.writeByte (lowByte m)) hx
    have high := linesIdle_of_drivenBy (.writeByte (highByte m)) low
    rw [frameEvents_eq, List.foldl_append, List.foldl_append, wiresAfter_append, wiresAfter_append, byte _ hx, byte _ low,
      latch high]
  cases h with
  | writeByte v => exact byte v hx
  | latch => exact latch hx
  | clear =>
    obtain ⟨-, hl, -⟩ := hx
    obtain ⟨⟨d, k, l, n, r⟩, ⟨sr, out⟩⟩ := x
    cases hl
    rfl
  | writeFrame m => exact frame m hx
  | select l => rfl
  | tick l m =>
    rw [tickEvents, List.foldl_append, wiresAfter_append]
    exact frame m (linesIdle_of_drivenBy (.select l) hx)

/-- Settles O27: an operation drives the events of its rule, or none. -/
theorem theEdgeChoiceDoesNotMatter : Obligations.TheEdgeChoiceDoesNotMatter := by
  intro i s t hidle h
  obtain ⟨es, ⟨ht, hw⟩, hes⟩ := drives_of_execEffect (exec_cases h)
  refine ⟨es, ht, ?_⟩
  rw [hw]
  obtain rfl | ⟨-, driven⟩ := hes
  · rfl
  · exact foldl_fallingReact_of_drivenBy driven hidle

/-- R126: a chain held in clear holds zero in its shift stage. -/
def ClearHeldIsZero (x : Wires) : Prop := x.pins.clrn = false → x.chain.sr = 0x0000#16

/-- R126: every reaction to a pin event keeps it so. -/
theorem clearHeldIsZero_react {x : Wires} (h : ClearHeldIsZero x) (e : PinEvent) : ClearHeldIsZero (x.react e) := by
  cases e with
  | clrn v => cases v <;> simp [ClearHeldIsZero, Wires.react, Pins.write, chainReact]
  | clk v =>
    intro hn
    have hn : x.pins.clrn = false := hn
    simp only [Wires.react, Pins.write, chainReact, hn]
    split
    · rfl
    · exact h hn
  | latch v =>
    intro hn
    rw [← h hn]
    simp only [Wires.react, chainReact]
    split <;> rfl
  | data v => exact h
  | row v => exact h

/-- R17: a write that leaves its line where it was leaves the chain where it was. -/
theorem react_of_redundant {x : Wires} {e : PinEvent} (hx : ClearHeldIsZero x) (h : x.pins.write e = x.pins) :
    x.react e = x := by
  have chain_kept : chainReact e x.pins (x.pins.write e) x.chain = x.chain := by
    cases e with
    | data v => rfl
    | row v => rfl
    | clk v =>
      have level : v = x.pins.clk := congrArg Pins.clk h
      simp [chainReact, level]
    | latch v =>
      have level : v = x.pins.latch := congrArg Pins.latch h
      simp [chainReact, level]
    | clrn v =>
      have level : v = x.pins.clrn := congrArg Pins.clrn h
      cases v with
      | true => rfl
      | false => simp [chainReact, ← hx level.symm]
  rw [Wires.react, chain_kept, h]

/-- Settles O28: by induction over the events, a redundant one changing nothing. -/
theorem redundantWritesDoNotMatter : Obligations.RedundantWritesDoNotMatter := by
  intro es
  induction es with
  | nil => exact fun x _ => rfl
  | cons e es ih =>
    intro x hx
    rw [levelChanges]
    split
    · next redundant => rw [ih x hx, wiresAfter, wiresAfter, List.foldl_cons, react_of_redundant hx redundant]
    · exact ih (x.react e) (clearHeldIsZero_react hx e)

end Sys2Proof.Machine

/-! # The FrameBuffer's operations, and the frame of every operation (R24, R43, R44, R85 to R90) -/

namespace Sys2Proof.Machine

/-- Settles O33: the level exists, so its cell is overwritten and the port answered. -/
theorem setLevelOverwritesOneCell : Obligations.SetLevelOverwritesOneCell := fun _ m s h => exec_setLevel_lt m s h

/-- Settles O34: the level exists and the port may read it. -/
theorem getLevelReturnsTheCell : Obligations.GetLevelReturnsTheCell := fun _ _ h hS => exec_getLevel_of_S hS h

/-- Settles O35: PENDING of the port that is served gets the three later stores. -/
theorem setAllMakesItsFirstStore : Obligations.SetAllMakesItsFirstStore := by
  intro m s
  obtain ⟨fb, cursor, wires, trace, portF, portS, order, port⟩ := s
  constructor <;>
  · rintro ⟨⟩
    rfl

/-! ## What an operation leaves alone -/

/-- R85 to R88: a cell an operation does not store to reads as before. -/
theorem readLevel_of_not_stored {i : Instr} {s t : State} (e : ExecEffect i s t) {k : Level}
    (hk : ∀ x, operationStore i = some x → k ≠ x.level) : t.readLevel k = s.readLevel k := by
  rw [readLevel_of_execEffect e]
  exact latestStore_of_forall_ne _ fun x hx => (hk x (Option.mem_toList.mp hx)).symm

/-- Settles O42: the stores of an operation are those `operationStore` names. -/
theorem cellsNotStoredToReadAsBefore : Obligations.CellsNotStoredToReadAsBefore :=
  fun _ _ _ h _ hk => readLevel_of_not_stored (exec_cases h) hk

theorem fb_of_no_store {i : Instr} {s t : State} (e : ExecEffect i s t) (hi : operationStore i = none) : t.fb = s.fb :=
  fb_ext fun k => readLevel_of_not_stored e (k := k) (by simp [hi])

/-- R42, R121: no operation passes a turn or changes the port that is served. -/
theorem order_port_of_execEffect {i : Instr} {s t : State} (e : ExecEffect i s t) : t.order = s.order ∧ t.port = s.port := by
  cases e with
  | tick => simp [refreshTick_eq]
  | _ => simp

/-- R50: no operation takes a word. -/
theorem incoming_of_execEffect {i : Instr} {s t : State} (e : ExecEffect i s t) (q : Port) :
    (t.portState q).incoming = (s.portState q).incoming := by
  cases e with
  | setAll m hi =>
    rw [← writeLevel_portState q s 0 m]
    generalize s.writeLevel 0 m = u
    cases s.port <;> cases q <;> rfl
  | _ => simp [withResponse_incoming]

theorem pending_of_not_setAll {i : Instr} {s t : State} (e : ExecEffect i s t) (hi : i.mnemonic ≠ .SET_ALL) (q : Port) :
    (t.portState q).pending = (s.portState q).pending := by
  obtain same | ⟨-, m, rfl, -⟩ := pending_of_execEffect e q
  · exact same
  · exact absurd rfl hi

/-- R95, R99: of the operations TICK alone moves the cursor. -/
theorem cursor_of_not_tick {i : Instr} {s t : State} (e : ExecEffect i s t) (hi : i.mnemonic ≠ .TICK) :
    t.cursor = s.cursor := by
  rw [cursor_of_execEffect e, if_neg]
  rintro ⟨-, rfl⟩
  exact hi rfl

/-! ## The frame of the pin operations (R70 to R73, R80) -/

/-- R24: what no event of a span can change is as before the span. -/
theorem unmoved_by_wiresAfter {α : Type} (f : Wires → α) {es : List PinEvent}
    (h : ∀ x, ∀ e ∈ es, f (x.react e) = f x) (x : Wires) : f (wiresAfter x es) = f x := by
  induction es generalizing x with
  | nil => rfl
  | cons e es ih =>
    have rest := ih (fun y e' he' => h y e' (List.mem_cons_of_mem _ he')) (x.react e)
    exact rest.trans (h x e List.mem_cons_self)

section

variable {m : Mnemonic} {es : List PinEvent} (h : DrivenBy m es) (x : Wires)

include h

/-- R24: what only the events of other operations can change is as before the operation's events. -/
theorem unmoved_by_drivenBy {α : Type} (f : Wires → α) (own : ∀ y e, f (y.react e) ≠ f y → m ∉ driversOf e) :
    f (wiresAfter x es) = f x :=
  unmoved_by_wiresAfter f (fun y e he => by_contra fun moved => own y e moved (mem_driversOf h e he)) x

theorem data_of_drivenBy (hm : m ∉ driversOf (.data false)) : (wiresAfter x es).pins.data = x.pins.data :=
  unmoved_by_drivenBy h x (·.pins.data) fun y e moved => by obtain ⟨v, rfl⟩ := (movesItsOwn y e).data moved; exact hm

theorem clk_of_drivenBy (hm : m ∉ driversOf (.clk false)) : (wiresAfter x es).pins.clk = x.pins.clk :=
  unmoved_by_drivenBy h x (·.pins.clk) fun y e moved => by obtain ⟨v, rfl⟩ := (movesItsOwn y e).clk moved; exact hm

theorem latch_of_drivenBy (hm : m ∉ driversOf (.latch false)) : (wiresAfter x es).pins.latch = x.pins.latch :=
  unmoved_by_drivenBy h x (·.pins.latch) fun y e moved => by obtain ⟨v, rfl⟩ := (movesItsOwn y e).latch moved; exact hm

theorem clrn_of_drivenBy (hm : m ∉ driversOf (.clrn false)) : (wiresAfter x es).pins.clrn = x.pins.clrn :=
  unmoved_by_drivenBy h x (·.pins.clrn) fun y e moved => by obtain ⟨v, rfl⟩ := (movesItsOwn y e).clrn moved; exact hm

theorem row_of_drivenBy (hm : m ∉ driversOf (.row 0#4)) : (wiresAfter x es).pins.row = x.pins.row :=
  unmoved_by_drivenBy h x (·.pins.row) fun y e moved => by obtain ⟨v, rfl⟩ := (movesItsOwn y e).row moved; exact hm

theorem out_of_drivenBy (hm : m ∉ driversOf (.latch false)) : (wiresAfter x es).chain.out = x.chain.out :=
  unmoved_by_drivenBy h x (·.chain.out) fun y e moved => by obtain ⟨v, rfl⟩ := (movesItsOwn y e).out moved; exact hm

theorem sr_of_drivenBy (hm : m ∉ driversOf (.clk false)) (hm' : m ∉ driversOf (.clrn false)) :
    (wiresAfter x es).chain.sr = x.chain.sr := by
  refine unmoved_by_drivenBy h x (·.chain.sr) fun y e moved => ?_
  obtain ⟨v, rfl | rfl⟩ := (movesItsOwn y e).sr moved
  · exact hm
  · exact hm'

end

/-- R70 to R73, R80: no pin operation makes a store. -/
theorem operationStore_of_pin_operation {i : Instr}
    (hi : i.mnemonic ∈ [.WRITE_BYTE, .LATCH, .CLEAR, .WRITE_FRAME, .SELECT]) : operationStore i = none := by
  cases i with
  | setLevel | setAll => simp [Instr.mnemonic] at hi
  | _ => rfl

/-- R70 to R73, R80: what the events of a pin operation, or none, leave alone. -/
theorem wires_frame_of_pin_operation {m : Mnemonic} {es : List PinEvent} (x : Wires) (h : es = [] ∨ DrivenBy m es)
    (hm : m ∈ [.WRITE_BYTE, .LATCH, .CLEAR, .WRITE_FRAME, .SELECT]) :
    (m ≠ .SELECT → (wiresAfter x es).pins.row = x.pins.row) ∧
    (m ≠ .CLEAR → (wiresAfter x es).pins.clrn = x.pins.clrn) ∧
    (m ∈ [.LATCH, .CLEAR, .SELECT] →
      (wiresAfter x es).pins.data = x.pins.data ∧ (wiresAfter x es).pins.clk = x.pins.clk) ∧
    (m ∈ [.WRITE_BYTE, .SELECT] →
      (wiresAfter x es).pins.latch = x.pins.latch ∧ (wiresAfter x es).chain.out = x.chain.out) ∧
    (m ∈ [.LATCH, .SELECT] → (wiresAfter x es).chain.sr = x.chain.sr) := by
  obtain rfl | h := h
  · exact ⟨fun _ => rfl, fun _ => rfl, fun _ => ⟨rfl, rfl⟩, fun _ => ⟨rfl, rfl⟩, fun _ => rfl⟩
  have no_tick : m ≠ .TICK := by rintro rfl; simp at hm
  refine ⟨fun hne => row_of_drivenBy h x ?_, fun hne => clrn_of_drivenBy h x ?_,
    fun hin => ⟨data_of_drivenBy h x ?_, clk_of_drivenBy h x ?_⟩,
    fun hin => ⟨latch_of_drivenBy h x ?_, out_of_drivenBy h x ?_⟩, fun hin => sr_of_drivenBy h x ?_ ?_⟩
  · simp [driversOf, no_tick, hne]
  · simp [driversOf, hne]
  all_goals fin_cases hin <;> decide

/-- Settles O43: what no store, no tick, no SET_ALL and none of the operation's own events can change. -/
theorem pinOperationsFrame : Obligations.PinOperationsFrame := by
  intro i s t hS h hi
  have e := exec_cases h
  have no_setAll : i.mnemonic ≠ .SET_ALL := fun hm => by simp [hm] at hi
  have no_tick : i.mnemonic ≠ .TICK := fun hm => by simp [hm] at hi
  have fb_same := fb_of_no_store e (operationStore_of_pin_operation hi)
  obtain ⟨order_same, port_same⟩ := order_port_of_execEffect e
  obtain ⟨es, ⟨-, hw⟩, hes⟩ := drives_of_execEffect e
  rw [hw]
  exact ⟨fb_same, readLevel_congr fb_same, cursor_of_not_tick e no_tick,
    portState_other_of_execEffect e (q := .F) (by simp [hS]), pending_of_not_setAll e no_setAll .S,
    incoming_of_execEffect e .S, order_same, port_same,
    wires_frame_of_pin_operation s.wires (hes.imp_right And.right) hi⟩

/-! ## The frame of the FrameBuffer's operations (R85 to R88) -/

/-- R24: an operation whose mnemonic drives no line leaves the lines, the chain and TRACE alone. -/
theorem wires_trace_of_frameBuffer_operation {i : Instr} {s t : State} (e : ExecEffect i s t)
    (hi : i.mnemonic ∈ [.SET_LEVEL, .SET_ALL, .GET_LEVEL]) : t.wires = s.wires ∧ t.trace = s.trace := by
  obtain ⟨es, ⟨ht, hw⟩, rfl | ⟨-, driven⟩⟩ := drives_of_execEffect e
  · exact ⟨hw, ht.trans (List.append_nil _)⟩
  · generalize i.mnemonic = m at hi driven
    cases driven <;> simp at hi

/-- Settles O44: what no event, no tick and no store can change, and what SET_ALL does on its own port. -/
theorem frameBufferOperationsFrame : Obligations.FrameBufferOperationsFrame := by
  intro i s t h hi
  have e := exec_cases h
  have no_tick : i.mnemonic ≠ .TICK := fun hm => by simp [hm] at hi
  obtain ⟨wires_same, trace_same⟩ := wires_trace_of_frameBuffer_operation e hi
  obtain ⟨order_same, port_same⟩ := order_port_of_execEffect e
  refine ⟨cursor_of_not_tick e no_tick, wires_same, trace_same, order_same, port_same, incoming_of_execEffect e,
    fun q hq => portState_other_of_execEffect e hq, fun hne => pending_of_not_setAll e hne s.port, fun hall => ?_,
    fun hget => fb_of_no_store e ?_⟩
  · obtain ⟨m, rfl⟩ := eq_setAll_of_mnemonic hall
    obtain ⟨u, hu, unanswered, -⟩ := exec_setAll_portState m s
    cases hu.symm.trans h
    exact unanswered
  · cases i with
    | getLevel => rfl
    | _ => cases hget

end Sys2Proof.Machine

/-! # Ticks: what one shows, what two in a row show, and what stores between them change (R43, R88, R95 to R99, R147) -/

namespace Sys2Proof.Machine

/-! ## What is lit (R130, R131) -/

/-- R131: with one row high and a mask latched, the lit LEDs are those of the row whose mask bit is 1. -/
theorem lit_iff {x : Wires} {r : Level} {m : Mask} (hrow : x.pins.row = rowOfLevel r) (hout : x.chain.out = m.reverse)
    (l : Level) (b : Fin 16) : lit x l b = true ↔ l = r ∧ m.getLsbD b = true := by
  rw [lit, columns_of_out_reverse hout, Bool.and_eq_true, hrow, rowOfLevel_getLsbD]

/-- Settles O52: no row is high, so nothing is lit. -/
theorem resetLeavesTheListedValues : Obligations.ResetLeavesTheListedValues := by
  refine ⟨by decide, rfl, rfl, rfl, rfl, rfl, fun c l b => ?_⟩
  have row_low : State.reset.wires.pins.row.getLsbD l = false := BitVec.getLsbD_zero
  rw [lit, row_low, Bool.false_and]

/-! ## One tick (R95, R99) -/

@[simp] theorem refreshTick_fb (s : State) : (refreshTick s).fb = s.fb := by
  rw [refreshTick_eq]
  rfl

@[simp] theorem refreshTick_order (s : State) : (refreshTick s).order = s.order := by
  rw [refreshTick_eq]
  rfl

/-- R95: a tick leaves the row of its level high, the other lines idle, and its mask in both stages. -/
theorem refreshTick_wires {s : State} (h : LinesIdle s.wires.pins) :
    (refreshTick s).wires =
      { pins := { Pins.idle with row := rowOfLevel (cursorLevel s.cursor) }
        chain := { sr := (s.readLevel (cursorLevel s.cursor)).reverse, out := (s.readLevel (cursorLevel s.cursor)).reverse } } := by
  rw [refreshTick_eq]
  refine (wiresAfter_tickEvents s.wires _ _ h).trans ?_
  obtain ⟨hk, hl, hn⟩ := h
  simp [Pins.idle, hk, hl, hn]

/-- Settles O46: the row of the level the cursor names is high, and its mask is latched. -/
theorem tickShowsItsLevel : Obligations.TickShowsItsLevel := by
  intro rest s horder h
  let l := cursorLevel s.cursor
  have wires : (refreshTick { s with order := rest }).wires =
      { pins := { Pins.idle with row := rowOfLevel l }
        chain := { sr := (s.readLevel l).reverse, out := (s.readLevel l).reverse } } := refreshTick_wires h
  refine ⟨_, step_of_timer horder, ?_, ?_, ?_, ?_, ?_, ?_, refreshTick_fb _⟩
  · rw [refreshTick_cursor, toNat_nextCursor]
  all_goals rw [wires]
  · rw [rowOfLevel_eq_shiftLeft]
    rfl
  · exact columns_of_out_reverse rfl
  · exact fun k b => lit_iff rfl rfl k b

/-- Settles O50: the command runs the tick in the state in which its word has been taken, and is answered. -/
theorem tickInputEqualsTickCommand : Obligations.TickInputEqualsTickCommand := by
  intro s rest ws howed
  have presented : Presented .S (encode .tick) ws rest
      { s with order := .port .S :: rest, portS := { s.portS with incoming := 0x90000000#32 :: ws } } :=
    ⟨rfl, howed, rfl⟩
  refine ⟨_, _, step_of_timer rfl, (step_of_presented_encode presented).trans (exec_tick_of_S rfl), ?_⟩
  rw [refreshTick_eq, refreshTick_eq]
  rfl

/-! ## Ticks in a row (R45, R97, R147) -/

/-- R95: the pin events of a tick in the state `s`, were the cursor `c`. -/
def drawnAt (s : State) (c : BitVec 2) : List PinEvent := tickEvents (cursorLevel c) (s.readLevel (cursorLevel c))

theorem add_one_add_ofNat (c : BitVec 2) (n : Nat) : c + 1#2 + BitVec.ofNat 2 n = c + BitVec.ofNat 2 (n + 1) := by
  rw [BitVec.add_assoc, ← BitVec.ofNat_add, Nat.add_comm]

/-- R97: ticks in a row draw the levels from the cursor on, with the masks held at the start. -/
theorem runsTo_ticks (n : Nat) (rest : List Agent) (s : State) (h : s.order = List.replicate n .timer ++ rest) :
    ∃ t, RunsTo n s t ∧ t.cursor = s.cursor + BitVec.ofNat 2 n ∧ t.fb = s.fb ∧ t.order = rest ∧
      t.trace = s.trace ++ ((List.range n).map fun j => drawnAt s (s.cursor + BitVec.ofNat 2 j)).flatten := by
  induction n generalizing s with
  | zero => exact ⟨s, (runsTo_zero s s).mpr rfl, (BitVec.add_zero _).symm, rfl, h, (List.append_nil _).symm⟩
  | succ n ih =>
    have hturn : s.order = .timer :: (List.replicate n .timer ++ rest) := h
    have hstep := step_of_timer hturn
    generalize hu : refreshTick { s with order := List.replicate n .timer ++ rest } = u at hstep
    have cursor_u : u.cursor = s.cursor + 1#2 := by rw [← hu, refreshTick_cursor, nextCursor]
    have fb_u : u.fb = s.fb := by rw [← hu, refreshTick_fb]
    have trace_u : u.trace = s.trace ++ drawnAt s s.cursor := by rw [← hu, refreshTick_trace]; rfl
    obtain ⟨t, hrun, hcursor, hfb, horder, htrace⟩ := ih u (by rw [← hu, refreshTick_order])
    refine ⟨t, (runsTo_succ n s t).mpr ⟨u, hstep, hrun⟩, ?_, hfb.trans fb_u, horder, ?_⟩
    · rw [hcursor, cursor_u, add_one_add_ofNat]
    · have shifted (j : Nat) : drawnAt u (u.cursor + BitVec.ofNat 2 j) = drawnAt s (s.cursor + BitVec.ofNat 2 (j + 1)) := by
        rw [drawnAt, readLevel_congr fb_u, cursor_u, add_one_add_ofNat, drawnAt]
      rw [htrace, trace_u, List.range_succ_eq_map, List.map_cons, List.flatten_cons, List.map_map, BitVec.add_zero,
        List.append_assoc]
      simp only [shifted, Function.comp_def]

/-- R45: the four levels are the cursor's level and the three after it, each once. -/
theorem level_drawn_once : ∀ (c : BitVec 2) (l : Level),
    ∃ j : BitVec 2, cursorLevel (c + j) = l ∧ ∀ j', cursorLevel (c + j') = l → j' = j := by
  decide

/-- Settles O51: four ticks in a row, after which the cursor is back. -/
theorem fourTicksDrawEveryLevelOnce : Obligations.FourTicksDrawEveryLevelOnce := by
  intro s rest h
  obtain ⟨t, hrun, hcursor, hfb, horder, htrace⟩ := runsTo_ticks 4 rest s h
  exact ⟨t, hrun, hcursor.trans (BitVec.add_zero _), hfb, horder, htrace, level_drawn_once s.cursor⟩

/-! ## The ghost window (R147) -/

/-- R73: the shifted bits of a frame stand in the shift stage before the latch pulse. -/
theorem wiresAfter_shiftEvents (x : Wires) (m : Mask) (h : LinesIdle x.pins) :
    wiresAfter x (shiftEvents m) =
      { pins := { x.pins with data := false }, chain := { x.chain with sr := m.reverse } } := by
  obtain ⟨hk, -, hn⟩ := h
  rw [shiftEvents, wiresAfter_append, wiresAfter_byteEvents x _ hk hn, wiresAfter_byteEvents _ _ (by exact hk) (by exact hn)]
  simp only [shiftByte_shiftByte]

/-- R126: from its first event on, a latch pulse shows the shift stage. -/
theorem out_of_take_latchEvents (x : Wires) (hl : x.pins.latch = false) {k : Nat} (hk : 1 ≤ k) :
    (wiresAfter x (latchEvents.take k)).chain.out = x.chain.sr := by
  obtain ⟨⟨d, c, l, n, r⟩, ⟨sr, out⟩⟩ := x
  cases hl
  match k, hk with
  | 1, _ => rfl
  | k + 2, _ => rw [List.take_of_length_le (by simp [latchEvents])]; rfl

/-- R81, R95: once the row is set, it stays for the rest of the tick. -/
theorem row_of_take_tickEvents (x : Wires) (l : Level) (m : Mask) {k : Nat} (hk : 2 ≤ k) :
    (wiresAfter x ((tickEvents l m).take k)).pins.row = rowOfLevel l := by
  obtain ⟨j, rfl⟩ := Nat.exists_eq_add_of_le hk
  have split : (tickEvents l m).take (2 + j) = selectEvents l ++ (frameEvents m).take j :=
    List.take_length_add_append (l₁ := selectEvents l) j
  rw [split, wiresAfter_append, wiresAfter_selectEvents,
    wiresAfter_row _ _ fun e he => noRowEvent_frameEvents m e (List.mem_of_mem_take he)]

/-- R75, R147: in a tick the outputs show the old frame up to the 52nd event. -/
theorem out_of_take_tickEvents_before (x : Wires) (l : Level) (m : Mask) {k : Nat} (hk : k ≤ 52) :
    (wiresAfter x ((tickEvents l m).take k)).chain.out = x.chain.out := by
  obtain ⟨-, -, hold⟩ := outputs_hold_before_latchEvents x (es := selectEvents l ++ shiftEvents m) (n := 52) rfl
    fun _ he b => (List.mem_append.mp he).elim (not_latch_of_mem_selectEvents · b) (not_latch_of_mem_shiftEvents · b)
  rw [tickEvents_eq_shiftEvents]
  exact hold k hk

/-- R147: from the 53rd event on they show the new one. -/
theorem out_of_take_tickEvents_after (x : Wires) (l : Level) (m : Mask) (h : LinesIdle x.pins) {k : Nat} (hk : 53 ≤ k) :
    (wiresAfter x ((tickEvents l m).take k)).chain.out = m.reverse := by
  obtain ⟨j, rfl⟩ := Nat.exists_eq_add_of_le hk
  have split : (tickEvents l m).take (53 + j) = (selectEvents l ++ shiftEvents m) ++ latchEvents.take (1 + j) := by
    rw [tickEvents_eq_shiftEvents, show 53 + j = (selectEvents l ++ shiftEvents m).length + (1 + j) by
      rw [← Nat.add_assoc]; rfl]
    exact List.take_length_add_append _
  have shifted : wiresAfter x (selectEvents l ++ shiftEvents m) =
      { pins := { x.pins with data := false, row := rowOfLevel l }, chain := { x.chain with sr := m.reverse } } := by
    rw [wiresAfter_append, wiresAfter_selectEvents, wiresAfter_shiftEvents _ _ (by exact h)]
  rw [split, wiresAfter_append, shifted]
  obtain ⟨-, hl, -⟩ := h
  exact out_of_take_latchEvents _ (by exact hl) (Nat.le_add_right 1 j)

/-- Settles O48: the second tick sets its row at its second event and latches its mask at its 53rd. -/
theorem ghostWindowShowsThePreviousFrame : Obligations.GhostWindowShowsThePreviousFrame := by
  intro s hS h
  refine ⟨_, exec_tick_of_S hS, fun s₂ hS₂ hw hc => ?_⟩
  rw [withResponse_wires, refreshTick_wires h] at hw
  rw [withResponse_cursor, refreshTick_cursor, nextCursor] at hc
  have idle₂ : LinesIdle s₂.wires.pins := by rw [hw]; exact ⟨rfl, rfl, rfl⟩
  refine ⟨_, _, exec_tick_of_S hS₂, (withResponse_trace ..).trans (refreshTick_trace s₂), fun k hk hk' l b => ?_,
    fun k hk l b => ?_⟩
  · rw [← hc]
    refine lit_iff (row_of_take_tickEvents _ _ _ hk) ((out_of_take_tickEvents_before _ _ _ hk').trans ?_) l b
    rw [hw]
  · rw [← hc]
    exact lit_iff (row_of_take_tickEvents _ _ _ (by omega)) (out_of_take_tickEvents_after _ _ _ idle₂ hk) l b

/-! ## Stores of port F and ticks (R43, R88, R89) -/

/-- R43: a tick that draws another level commutes with a store. -/
theorem refreshTick_writeLevel {s : State} {l : Level} (m : Mask) (h : cursorLevel s.cursor ≠ l) :
    refreshTick (s.writeLevel l m) = (refreshTick s).writeLevel l m := by
  rw [refreshTick_eq, refreshTick_eq, writeLevel_cursor, readLevel_writeLevel_other s l _ m h]
  rfl

/-- R43: a tick commutes with a response. -/
theorem refreshTick_withResponse (s : State) (p : Port) (w : Word) :
    refreshTick (withResponse p w s) = withResponse p w (refreshTick s) := by
  rw [refreshTick_eq, refreshTick_eq, withResponse_cursor, withResponse_readLevel]
  cases p <;> rfl

/-- R43: a tick commutes with the taking of a word. -/
theorem refreshTick_wordTaken (s : State) (p : Port) (ws : List Word) (rest : List Agent) :
    refreshTick (wordTaken p ws rest s) = wordTaken p ws rest (refreshTick s) := by
  rw [refreshTick_eq, refreshTick_eq, wordTaken_cursor, wordTaken_readLevel]
  cases p <;> rfl

/-- R111: SET_LEVEL of a level that does not exist is answered `BOUNDS`, on either port. -/
theorem exec_setLevel_ge {level : Byte} (mask : Mask) (s : State) (h : 4 ≤ level.toNat) :
    exec (.setLevel level mask) s = .next (withResponse s.port 0x01000000#32 s) :=
  congrArg _ (withLevel_ge s _ h)

/-- R42: what SET_LEVEL does is the same whatever stands in order. -/
theorem exec_setLevel_order {level : Byte} {mask : Mask} {s t : State} (h : exec (.setLevel level mask) s = .next t)
    (order : List Agent) : exec (.setLevel level mask) { s with order := order } = .next { t with order := order } := by
  obtain ⟨fb, cursor, wires, trace, portF, portS, order', port⟩ := s
  rcases Nat.lt_or_ge level.toNat 4 with hlevel | hlevel
  · rw [exec_setLevel_lt mask _ hlevel] at h ⊢
    cases h
    cases port <;> rfl
  · rw [exec_setLevel_ge mask _ hlevel] at h ⊢
    cases h
    cases port <;> rfl

section

variable {level : Byte} {mask : Mask} {ws : List Word} {rest : List Agent} {s : State}
  (howed : s.portF.pending = []) (hword : s.portF.incoming = encode (.setLevel level mask) :: ws)

include howed hword

/-- R42: a tick, then the command that waits on port F. -/
theorem runsTo_tick_then_command {t : State}
    (ht : exec (.setLevel level mask) (wordTaken .F ws rest (refreshTick s)) = .next t) :
    RunsTo 2 { s with order := .timer :: .port .F :: rest } t := by
  let u := refreshTick { s with order := .port .F :: rest }
  have held : u.portState .F = s.portF := refreshTick_portState ..
  have presented : Presented .F (encode (.setLevel level mask)) ws rest u :=
    ⟨refreshTick_order _, by rw [held, howed], by rw [held, hword]⟩
  have taken : wordTaken .F ws rest u = wordTaken .F ws rest (refreshTick s) := by
    rw [← refreshTick_wordTaken, ← refreshTick_wordTaken]
    rfl
  exact (runsTo_succ ..).mpr ⟨u, step_of_timer rfl,
    (runsTo_succ ..).mpr ⟨t, (step_of_presented_encode presented).trans (taken ▸ ht), (runsTo_zero ..).mpr rfl⟩⟩

/-- R42: the command that waits on port F, then a tick. -/
theorem runsTo_command_then_tick {t : State} (ht : exec (.setLevel level mask) (wordTaken .F ws rest s) = .next t) :
    RunsTo 2 { s with order := .port .F :: .timer :: rest } (refreshTick t) := by
  have presented : Presented .F (encode (.setLevel level mask)) ws (.timer :: rest)
      { s with order := .port .F :: .timer :: rest } := ⟨rfl, howed, hword⟩
  have executed : step { s with order := .port .F :: .timer :: rest } = .next { t with order := .timer :: rest } :=
    (step_of_presented_encode presented).trans (exec_setLevel_order ht (.timer :: rest))
  obtain ⟨rfl, -⟩ := order_port_of_execEffect (exec_cases ht)
  exact (runsTo_succ ..).mpr ⟨_, executed, (runsTo_succ ..).mpr ⟨_, step_of_timer rfl, (runsTo_zero ..).mpr rfl⟩⟩

end

/-- Settles O41: the tick commutes with the store, or with the answer `BOUNDS`, and with the taking of the word. -/
theorem tickCommutesWithAStoreToAnotherLevel : Obligations.TickCommutesWithAStoreToAnotherLevel := by
  intro level mask ws rest s hne howed hword
  rcases Nat.lt_or_ge level.toNat 4 with hlevel | hlevel
  · let l : Level := ⟨level.toNat, hlevel⟩
    have other : cursorLevel (wordTaken .F ws rest s).cursor ≠ l := fun he => hne (congrArg Fin.val he)
    refine ⟨_, runsTo_tick_then_command howed hword (exec_setLevel_lt mask _ hlevel), ?_⟩
    rw [← refreshTick_wordTaken, ← refreshTick_writeLevel mask other, ← refreshTick_withResponse]
    exact runsTo_command_then_tick howed hword (exec_setLevel_lt mask _ hlevel)
  · refine ⟨_, runsTo_tick_then_command howed hword (exec_setLevel_ge mask _ hlevel), ?_⟩
    rw [← refreshTick_wordTaken, ← refreshTick_withResponse]
    exact runsTo_command_then_tick howed hword (exec_setLevel_ge mask _ hlevel)

/-- Settles O40: the tick reads the cell before the store or after it, and leaves it alone. -/
theorem storeRacingATickIsNeverTorn : Obligations.StoreRacingATickIsNeverTorn := by
  intro level mask ws rest s hlevel hcursor howed hword
  have drawn : cursorLevel s.cursor = ⟨level.toNat, hlevel⟩ := Fin.ext hcursor
  refine ⟨⟨_, runsTo_tick_then_command howed hword (exec_setLevel_lt mask _ hlevel), ?_, ?_⟩,
    _, runsTo_command_then_tick howed hword (exec_setLevel_lt mask _ hlevel), ?_, ?_⟩
  · simp [drawn]
  · simp
  · simp [drawn]
  · simp

/-- Settles O37: the first store is made before the first tick reads level 0; the second tick reads level 1 before its store. -/
theorem ticksInsideSetAllSeeNewThenOld : Obligations.TicksInsideSetAllSeeNewThenOld := by
  intro mask ws rest s h hcursor
  let b := setAllBegun .F mask ws (.timer :: .timer :: rest) s
  have zero : b.cursor = 0#2 := hcursor
  have new : b.readLevel 0 = mask := readLevel_writeLevel_same ..
  have old : b.readLevel 1 = s.readLevel 1 := readLevel_writeLevel_other _ 0 1 mask (by decide)
  obtain ⟨t, hrun, -, -, -, htrace⟩ := runsTo_ticks 2 rest b rfl
  refine ⟨t, (runsTo_succ ..).mpr ⟨b, step_of_presented_setAll h, hrun⟩, ?_⟩
  have drawn : ((List.range 2).map fun j => drawnAt b (0#2 + BitVec.ofNat 2 j)).flatten =
      tickEvents 0 (b.readLevel 0) ++ (tickEvents 1 (b.readLevel 1) ++ []) := rfl
  rw [htrace, zero, drawn, new, old, List.append_nil, ← List.append_assoc]
  rfl

end Sys2Proof.Machine
